-- ==== Sys2Proof/Word.lean ====
section
/-! DEFINITION. The widths of the spec's parameters (00_scope.md R6, R9) as bit-vector types. -/

namespace Sys2Proof

/-- An 8-bit byte (R9). -/
abbrev Byte := BitVec 8

/-- An instruction word: 40 bits (30_encoding.md R100). -/
abbrev Word := BitVec 40

/-- The immediate field of an instruction word, `w[31:0]` (R100). -/
abbrev Imm := BitVec 32

/-- The opcode field of an instruction word, `w[39:32]` (R100). -/
abbrev Opcode := BitVec 8

/-- A memory address: `AW` = 32 bits (R6, R71). -/
abbrev Addr := BitVec 32

/-- A transfer length: `LENW` = 16 bits (R6, R52). -/
abbrev Len := BitVec 16

/-- A baud-rate divisor: `DIVW` = 16 bits (R6, R38). -/
abbrev Divisor := BitVec 16

/-- A requested rate in bits per second: `RATEW` = 32 bits (R6, R39). -/
abbrev Rate := BitVec 32

/-- A sampled peripheral-clock frequency in hertz: `FW` = 32 bits (R6, R37). -/
abbrev Freq := BitVec 32

/-- An answer of the clock query, coded as the frequency less one: the oracle answers 1 to
`2^32 - 1` hertz and never 0 (00_scope.md R7 (a), 41_config.md R137). -/
abbrev ClockAnswer := Fin 4294967295

end Sys2Proof
end

