-- ==== Sys2Proof/Syntax.lean ====
section
/-! DEFINITION. The 27 instructions (30_encoding.md R105; one constructor per row of
spec/opcode_table.json) with the operands their formats carry (R101, R102). -/

namespace Sys2Proof

/-- The instructions of the block. Operands are the unsigned fields of `IMM` (R102). -/
inductive Instr where
  /-- BUE, format S: branch over `s` instructions if the engine is enabled (R131). -/
  | bue (s : BitVec 8)
  /-- CLKEN: enable the clocks of all involved blocks (R132). -/
  | clken
  /-- PINCFG: both lines to alternate-function open-drain, no pull (R133). -/
  | pincfg
  /-- DMAWIRE: bind both channels to the engine's data register (R134). -/
  | dmawire
  /-- IRQEN: enable the completion interrupt in the controller (R135). -/
  | irqen
  /-- UEDIS: disable the engine (R136). -/
  | uedis
  /-- CLKRD: read the system clock tree (R137). -/
  | clkrd
  /-- BRGLD, format R: load the divisor for `rate` (R138). -/
  | brgld (rate : Rate)
  /-- UEEN: enable the engine (R139). -/
  | ueen
  /-- FCLR, format M: clear the status flags of the channels in mask `m` (R161). -/
  | fclr (m : BitVec 2)
  /-- LENLD.TX, format L (R162). -/
  | lenldTx (len : Len)
  /-- MALD.TX, format A (R163). -/
  | maldTx (addr : Addr)
  /-- LENLD.RX, format L (R164). -/
  | lenldRx (len : Len)
  /-- MALD.RX, format A (R165). -/
  | maldRx (addr : Addr)
  /-- DONECLR: reset the Completion Flag to pending (R166). -/
  | doneclr
  /-- DRQEN: enable the request lines of both directions (R167). -/
  | drqen
  /-- TCIEN: enable the receive-complete interrupt source (R168). -/
  | tcien
  /-- CHEN.RX: start the receive channel (R170). -/
  | chenRx
  /-- CHEN.TX: start the transmit channel (R171). -/
  | chenTx
  /-- WDONE, format H: block until the Completion Flag reads done (R172). -/
  | wdone (h : Bool)
  /-- DRQDIS: disable the request lines of both directions (R173). -/
  | drqdis
  /-- DONESET: set the Completion Flag to done (R201). -/
  | doneset
  /-- IRET: return from the handler (R202). -/
  | iret
  /-- PUT, format A: one byte from memory to the transmit register (R221). -/
  | put (addr : Addr)
  /-- WTXE: wait for "transmit register empty" (R222). -/
  | wtxe
  /-- WRXNE: wait for "receive register not empty" (R223). -/
  | wrxne
  /-- GET, format A: one byte from the receive register to memory (R224). -/
  | get (addr : Addr)
  deriving DecidableEq, Repr

/-- Column "gated" of the table of R105: the instruction needs `CLK_ON = 1`. -/
def Instr.gated : Instr → Bool
  | .bue _ => false
  | .clken => false
  | .pincfg => true
  | .dmawire => true
  | .irqen => false
  | .uedis => true
  | .clkrd => false
  | .brgld _ => true
  | .ueen => true
  | .fclr _ => true
  | .lenldTx _ => true
  | .maldTx _ => true
  | .lenldRx _ => true
  | .maldRx _ => true
  | .doneclr => false
  | .drqen => true
  | .tcien => true
  | .chenRx => true
  | .chenTx => true
  | .wdone _ => false
  | .drqdis => true
  | .doneset => false
  | .iret => false
  | .put _ => true
  | .wtxe => true
  | .wrxne => true
  | .get _ => true

/-- Column "ctx" of the table of R105 for context HANDLER (H): only DONESET, FCLR and IRET. -/
def Instr.inHandler : Instr → Bool
  | .bue _ => false
  | .clken => false
  | .pincfg => false
  | .dmawire => false
  | .irqen => false
  | .uedis => false
  | .clkrd => false
  | .brgld _ => false
  | .ueen => false
  | .fclr _ => true
  | .lenldTx _ => false
  | .maldTx _ => false
  | .lenldRx _ => false
  | .maldRx _ => false
  | .doneclr => false
  | .drqen => false
  | .tcien => false
  | .chenRx => false
  | .chenTx => false
  | .wdone _ => false
  | .drqdis => false
  | .doneset => true
  | .iret => true
  | .put _ => false
  | .wtxe => false
  | .wrxne => false
  | .get _ => false

/-- Column "ctx" of the table of R105 for context THREAD (T): all but DONESET and IRET. -/
def Instr.inThread : Instr → Bool
  | .bue _ => true
  | .clken => true
  | .pincfg => true
  | .dmawire => true
  | .irqen => true
  | .uedis => true
  | .clkrd => true
  | .brgld _ => true
  | .ueen => true
  | .fclr _ => true
  | .lenldTx _ => true
  | .maldTx _ => true
  | .lenldRx _ => true
  | .maldRx _ => true
  | .doneclr => true
  | .drqen => true
  | .tcien => true
  | .chenRx => true
  | .chenTx => true
  | .wdone _ => true
  | .drqdis => true
  | .doneset => false
  | .iret => false
  | .put _ => true
  | .wtxe => true
  | .wrxne => true
  | .get _ => true

end Sys2Proof
end

