-- ==== Sys2Proof/WellFormed.lean ====
section
/-! DEFINITION. Which terms of `Instr` are instructions of the block: the one extra constraint of the
formats that is about the instruction alone (30_encoding.md R101: format M has `m != 0`). The
constraint of format S is about the program and is in Decode.lean (`programAccepted`). -/

namespace Sys2Proof

/-- The operand constraint of the instruction's format (R101). -/
def Instr.wellFormed : Instr → Bool
  | .bue _ => true
  | .clken => true
  | .pincfg => true
  | .dmawire => true
  | .irqen => true
  | .uedis => true
  | .clkrd => true
  | .brgld _ => true
  | .ueen => true
  | .fclr m => m ≠ 0
  | .lenldTx _ => true
  | .maldTx _ => true
  | .lenldRx _ => true
  | .maldRx _ => true
  | .doneclr => true
  | .drqen => true
  | .tcien => true
  | .chenRx => true
  | .chenTx => true
  | .wdone _ => true
  | .drqdis => true
  | .doneset => true
  | .iret => true
  | .put _ => true
  | .wtxe => true
  | .wrxne => true
  | .get _ => true

end Sys2Proof
end

