-- ==== Sys2Proof/Decode.lean ====
section
/-! DEFINITION. The encoding of 30_encoding.md: decoding as a total function on 40-bit words
(R110), the encoder written from the same formats (R101, R105), the mask and match form (R106), and
the program check (R111). -/

namespace Sys2Proof

/-- What a word decodes to (R110). -/
inductive Decoded where
  /-- An instruction with its operands. -/
  | instr (i : Instr)
  /-- `ILLEGAL_OP`: `OP` is not one of the 27 opcodes. -/
  | illegalOp
  /-- `ILLEGAL_IMM`: a must-be-zero bit is 1, or the format's extra constraint fails. -/
  | illegalImm
  deriving DecidableEq, Repr

/-- `OP = w[39:32]` (R100). -/
def opField (w : Word) : Opcode := w.extractLsb' 32 8

/-- `IMM = w[31:0]` (R100). -/
def immField (w : Word) : Imm := w.extractLsb' 0 32

/-- Format N: `IMM[31:0]` must be zero (R101). -/
def formatN (i : Instr) (imm : Imm) : Decoded :=
  if imm = 0 then .instr i else .illegalImm

/-- Format S: `s = IMM[7:0]`, `IMM[31:8]` must be zero (R101). -/
def formatS (f : BitVec 8 → Instr) (imm : Imm) : Decoded :=
  if imm.extractLsb' 8 24 = 0 then .instr (f (imm.extractLsb' 0 8)) else .illegalImm

/-- Formats R and A: all 32 bits are the operand (R101). -/
def formatWhole (f : BitVec 32 → Instr) (imm : Imm) : Decoded :=
  .instr (f imm)

/-- Format L: `len = IMM[15:0]`, `IMM[31:16]` must be zero (R101). -/
def formatL (f : Len → Instr) (imm : Imm) : Decoded :=
  if imm.extractLsb' 16 16 = 0 then .instr (f (imm.extractLsb' 0 16)) else .illegalImm

/-- Format M: `m = IMM[1:0]`, `IMM[31:2]` must be zero, and `m != 0` (R101). -/
def formatM (f : BitVec 2 → Instr) (imm : Imm) : Decoded :=
  if imm.extractLsb' 2 30 = 0 ∧ imm.extractLsb' 0 2 ≠ 0 then .instr (f (imm.extractLsb' 0 2))
  else .illegalImm

/-- Format H: `h = IMM[0]`, `IMM[31:1]` must be zero (R101). -/
def formatH (f : Bool → Instr) (imm : Imm) : Decoded :=
  if imm.extractLsb' 1 31 = 0 then .instr (f (imm.getLsbD 0)) else .illegalImm

/-- The opcode map (R105): the format of each opcode; every other opcode is reserved (R112). -/
def decodeFields (op : Opcode) (imm : Imm) : Decoded :=
  match op.toNat with
  | 0x01 => formatS .bue imm
  | 0x02 => formatN .clken imm
  | 0x03 => formatN .pincfg imm
  | 0x04 => formatN .dmawire imm
  | 0x05 => formatN .irqen imm
  | 0x06 => formatN .uedis imm
  | 0x07 => formatN .clkrd imm
  | 0x08 => formatWhole .brgld imm
  | 0x09 => formatN .ueen imm
  | 0x10 => formatM .fclr imm
  | 0x11 => formatL .lenldTx imm
  | 0x12 => formatWhole .maldTx imm
  | 0x13 => formatL .lenldRx imm
  | 0x14 => formatWhole .maldRx imm
  | 0x15 => formatN .doneclr imm
  | 0x16 => formatN .drqen imm
  | 0x17 => formatN .tcien imm
  | 0x18 => formatN .chenRx imm
  | 0x19 => formatN .chenTx imm
  | 0x1A => formatH .wdone imm
  | 0x1B => formatN .drqdis imm
  | 0x20 => formatN .doneset imm
  | 0x21 => formatN .iret imm
  | 0x30 => formatWhole .put imm
  | 0x31 => formatN .wtxe imm
  | 0x32 => formatN .wrxne imm
  | 0x33 => formatWhole .get imm
  | _ => .illegalOp

/-- Decoding, total on 40-bit words (R110). -/
def decode (w : Word) : Decoded :=
  decodeFields (opField w) (immField w)

/-- The host's entry: an instruction whose bits are `w`, bit 0 the least significant of the one
40-bit word (R9, R100). The bits above `nbits` are 0, and a word has no bit above bit 39. -/
def decodeTableWord (nbits w : Nat) : Option Instr :=
  let v := w % 2 ^ nbits
  if v < 2 ^ 40 then
    match decode (BitVec.ofNat 40 v) with
    | .instr i => some i
    | .illegalOp => none
    | .illegalImm => none
  else none

/-! The encoder. -/

/-- The opcode of an instruction (R105). -/
def Instr.opcode : Instr → Opcode
  | .bue _ => 0x01
  | .clken => 0x02
  | .pincfg => 0x03
  | .dmawire => 0x04
  | .irqen => 0x05
  | .uedis => 0x06
  | .clkrd => 0x07
  | .brgld _ => 0x08
  | .ueen => 0x09
  | .fclr _ => 0x10
  | .lenldTx _ => 0x11
  | .maldTx _ => 0x12
  | .lenldRx _ => 0x13
  | .maldRx _ => 0x14
  | .doneclr => 0x15
  | .drqen => 0x16
  | .tcien => 0x17
  | .chenRx => 0x18
  | .chenTx => 0x19
  | .wdone _ => 0x1A
  | .drqdis => 0x1B
  | .doneset => 0x20
  | .iret => 0x21
  | .put _ => 0x30
  | .wtxe => 0x31
  | .wrxne => 0x32
  | .get _ => 0x33

/-- The immediate of an instruction: its operand at the low end, zeros above (R101). -/
def Instr.immediate : Instr → Imm
  | .bue s => 0#24 ++ s
  | .clken => 0
  | .pincfg => 0
  | .dmawire => 0
  | .irqen => 0
  | .uedis => 0
  | .clkrd => 0
  | .brgld rate => rate
  | .ueen => 0
  | .fclr m => 0#30 ++ m
  | .lenldTx len => 0#16 ++ len
  | .maldTx addr => addr
  | .lenldRx len => 0#16 ++ len
  | .maldRx addr => addr
  | .doneclr => 0
  | .drqen => 0
  | .tcien => 0
  | .chenRx => 0
  | .chenTx => 0
  | .wdone h => 0#31 ++ BitVec.ofBool h
  | .drqdis => 0
  | .doneset => 0
  | .iret => 0
  | .put addr => addr
  | .wtxe => 0
  | .wrxne => 0
  | .get addr => addr

/-- The word of an instruction: `OP` in bits 39 to 32, then `IMM` (R100, R106). -/
def encode (i : Instr) : Word := i.opcode ++ i.immediate

/-- The match value of the instruction's row: `OP << 32` (R106). -/
def Instr.matchWord (i : Instr) : Word := i.opcode ++ 0#32

/-- The mask of the instruction's format over the 40-bit word (R106). -/
def Instr.maskWord : Instr → Word
  | .bue _ => 0xFFFFFFFF00
  | .clken => 0xFFFFFFFFFF
  | .pincfg => 0xFFFFFFFFFF
  | .dmawire => 0xFFFFFFFFFF
  | .irqen => 0xFFFFFFFFFF
  | .uedis => 0xFFFFFFFFFF
  | .clkrd => 0xFFFFFFFFFF
  | .brgld _ => 0xFF00000000
  | .ueen => 0xFFFFFFFFFF
  | .fclr _ => 0xFFFFFFFFFC
  | .lenldTx _ => 0xFFFFFF0000
  | .maldTx _ => 0xFF00000000
  | .lenldRx _ => 0xFFFFFF0000
  | .maldRx _ => 0xFF00000000
  | .doneclr => 0xFFFFFFFFFF
  | .drqen => 0xFFFFFFFFFF
  | .tcien => 0xFFFFFFFFFF
  | .chenRx => 0xFFFFFFFFFF
  | .chenTx => 0xFFFFFFFFFF
  | .wdone _ => 0xFFFFFFFFFE
  | .drqdis => 0xFFFFFFFFFF
  | .doneset => 0xFFFFFFFFFF
  | .iret => 0xFFFFFFFFFF
  | .put _ => 0xFF00000000
  | .wtxe => 0xFFFFFFFFFF
  | .wrxne => 0xFFFFFFFFFF
  | .get _ => 0xFF00000000

/-! The program check (R111). -/

/-- Format S's constraint on a program of `n` words: the target of a BUE at index `p` is at most
`n` (R101, R111). -/
def skipFits (n p : Nat) : Instr → Bool
  | .bue s => p + 1 + s.toNat ≤ n
  | _ => true

/-- The words of a program from index `p` on are accepted in a program of `n` words (R111). -/
def wordsAccepted (n : Nat) : Nat → List Word → Bool
  | _, [] => true
  | p, w :: ws =>
    (match decode w with
      | .instr i => skipFits n p i
      | .illegalOp => false
      | .illegalImm => false) && wordsAccepted n (p + 1) ws

/-- A thread program is accepted when every word decodes and every BUE target is at most its length
(20_memory.md R76, 30_encoding.md R111); a program that is not is refused before it runs. -/
def programAccepted (prog : List Word) : Bool :=
  wordsAccepted prog.length 0 prog

end Sys2Proof
end

