-- ==== Sys2Proof/Config.lean ====
section
/-! DEFINITION. What a platform fixes and the spec leaves open, and the free values: opaque constants
with no body, so that no proof can see what they are. -/

namespace Sys2Proof

/-- The agents that may be offered a step (00_scope.md R5), SHIFT under its two steps. The arbiter
has no step of its own: it decides whether a channel that is offered one may take it (R254). -/
inductive Actor where
  /-- HOST executes one instruction (R107). -/
  | host
  /-- SHIFT.start (R244). -/
  | shiftStart
  /-- SHIFT.complete (R246). -/
  | shiftComplete
  /-- DMA.TX beat (R250). -/
  | dmaTx
  /-- DMA.RX beat (R252). -/
  | dmaRx
  /-- IRQ.entry (R292). -/
  | irqEntry
  /-- BRG.tick (R241). -/
  | brgTick
  deriving DecidableEq, Repr, Inhabited

/-- Compile-time choice of the transceiver path (00_scope.md R6, 44_polling.md R229). -/
inductive XferPath where
  /-- `XFER_PATH = DMA` (primary). -/
  | dma
  /-- `XFER_PATH = POLL` (alternate). -/
  | poll
  deriving DecidableEq, Repr

/-- `DR_ADDR`, OPEN (R6, D38): the address of the engine's data register. Log entry 17. -/
opaque Config.drAddr : Addr

/-- `IRQ_PRIO`, OPEN (R6, D34): the fixed priority level. Log entry 17. -/
opaque Config.irqPrio : Nat

/-- FREE VALUE: which agent is offered a step when the run's own list of choices is used up; a free
choice of the scheduler (45_engines.md R240, 93 U17). Log entry 4. -/
opaque Config.nextActor : Nat → Actor

/-- FREE VALUE: the oracle `ClockTree(draw)` (R7 (a)). Log entry 6. -/
opaque Config.clockTree : Nat → ClockAnswer

/-- FREE VALUE: the oracle `Bus(k, b, div)` (R7 (b)); `none` is STALL. Log entry 7. -/
opaque Config.bus : Nat → Byte → Divisor → Option Byte

/-- FREE VALUE: the oracle `irq_ok` (R7 (c)). Log entry 8. -/
opaque Config.irqOk : Bool

/-- `FRAME_BITS` (R6, D9): bit times in one serial frame, timing only (70_reset_and_hazards.md R352). -/
def Config.frameBits : Nat := 10

/-- `2^AW` (R6). -/
abbrev Config.addrSpace : Nat := 4294967296

/-- `2^DIVW - 1`, the largest divisor (R38). -/
abbrev Config.divMax : Nat := 65535

/-- `2^LENW - 1`, the largest length (R52). -/
abbrev Config.lenMax : Nat := 65535

end Sys2Proof
end

