-- ==== Sys2Proof/Machine/State.lean ====
section
/-! DEFINITION. The state of the block (10_state.md, R66: elements S00 to S43), the launch parameters
of a run, the model's own input fields, the reasons a step can stop, and the state after reset (R320).

`Option` in a register is the spec's own NONE: the reset content R66 gives it and R11 defines. NONE is
no value and no rule reads one out of it. Log entry 1. -/

namespace Sys2Proof.Machine

/-- The model's faults (60_exceptions.md R281), numbered there 1 to 15. A faulting step records the
name in `State.fault` and changes nothing else; a step from a state that holds a record stops with
it (R33, R282). All are safe: the model stops where the source gives the situation no meaning. -/
inductive Fault where
  /-- 1 FAULT_ILLEGAL_OP, raised by HOST fetch: the opcode is not in R105. Safe. -/
  | illegalOp
  /-- 2 FAULT_ILLEGAL_IMM, raised by HOST fetch: a must-be-zero bit is 1, or FCLR has `m = 0`. Safe. -/
  | illegalImm
  /-- 3 FAULT_CONTEXT, raised by every instruction in a context R105 does not allow, and by FCLR in
  HANDLER with `m != 0b10`. Safe. -/
  | context
  /-- 4 FAULT_UNCLOCKED, raised by every gated instruction while `CLK_ON = 0`. Safe. -/
  | unclocked
  /-- 5 FAULT_NOT_CONFIGURED, raised by DRQEN, PUT (`UE = 0`) and CHEN.c (`WIRED = 0`). Safe. -/
  | notConfigured
  /-- 6 FAULT_BUSY, raised by PINCFG, DMAWIRE, UEDIS when not IDLE, by LENLD.c, MALD.c, CHEN.c while
  `c.EN = 1`, by DONECLR while a channel is enabled. Safe. -/
  | busy
  /-- 7 FAULT_TORN, raised by BRGLD while `UE = 1`. Safe. -/
  | torn
  /-- 8 FAULT_UNINIT, raised by an instruction or agent step that needs an element holding NONE: the
  spec states this stop (00_scope.md R11, R281 row 8; D28, U22: "never zero"). Safe. -/
  | uninit
  /-- 9 FAULT_DIV_RANGE, raised by BRGLD: `rate = 0`, or the divisor is 0 or above 65535. Safe. -/
  | divRange
  /-- 10 FAULT_LEN_MISMATCH, raised by CHEN.TX: `TX.CNT != RX.CNT`. Safe. -/
  | lenMismatch
  /-- 11 FAULT_OVERLAP, raised by CHEN.TX: the buffer ranges intersect. Safe. -/
  | overlap
  /-- 12 FAULT_MEM, raised by the DMA beats, PUT and GET outside `RD` or `WR`, and by CHEN.c on a range
  that wraps. Safe. -/
  | mem
  /-- 13 FAULT_OVERRUN, raised by SHIFT.complete while `RXNE = 1`. Safe. -/
  | overrun
  /-- 14 FAULT_TDR_OVERWRITE, raised by PUT while `TXE = 0`. Safe. -/
  | tdrOverwrite
  /-- 15 FAULT_RDR_EMPTY, raised by GET while `RXNE = 0`. Safe. -/
  | rdrEmpty
  deriving DecidableEq, Repr

/-- The reasons a step has no meaning. -/
inductive Refusal where
  /-- Raised by an arm of `exec` whose instruction has no meaning yet. Safe. -/
  | notModelled (mnemonic : String)
  /-- Raised by HOST when it has to fetch at `PC > |PROG|` or at `HPC` past HPROG, which the spec says
  cannot arise (R25, R26). Safe. Log entry 12. -/
  | noWordAtCounter
  /-- Raised by a DMA beat of a channel whose direction bit is not the one R51 gives it, which no
  instruction can bring about. Safe. Log entry 15. -/
  | descriptorDirection
  deriving DecidableEq, Repr

/-- The modes of an I/O line (R35). -/
inductive PinMode where
  /-- `PIN_RESET`. -/
  | reset
  /-- `PIN_AF_OD_NOPULL`: alternate-function open-drain with no pull. -/
  | afOdNoPull
  deriving DecidableEq, Repr

/-- A DMA channel: its descriptor (R50 to R52), its enable (R53) and its flag (R31). -/
structure Channel where
  /-- `c.PADDR` (S20, S28): the peripheral-side address. -/
  paddr : Option Addr
  /-- `c.MADDR` (S21, S29): the memory-side address. -/
  maddr : Option Addr
  /-- `c.CNT` (S22, S30): bytes left. -/
  cnt : Option Len
  /-- `c.DIR` (S23, S31): 1 is memory to peripheral. -/
  dir : Option Bool
  /-- `c.MINC` (S24, S32): the memory-side address increments. -/
  minc : Option Bool
  /-- `c.PINC` (S25, S33): the peripheral-side address increments. -/
  pinc : Option Bool
  /-- `c.EN` (S26, S34). -/
  en : Bool
  /-- `c.TC` (S27, S35): transfer complete. -/
  tc : Bool
  deriving DecidableEq, Repr

/-- Who made a memory access (R10, R62). -/
inductive MemAgent where
  /-- HOST: PUT and GET. -/
  | host
  /-- The transmit channel. -/
  | dmaTx
  /-- The receive channel. -/
  | dmaRx
  deriving DecidableEq, Repr

/-- The events of the ghost history `H` (R62). -/
inductive Event where
  /-- `ClkRead(f)`. -/
  | clkRead (f : Freq)
  /-- `DivLoad(rate, f, d)`. -/
  | divLoad (rate : Rate) (f : Freq) (d : Divisor)
  /-- `MemR(agent, a, v)`. -/
  | memR (agent : MemAgent) (a : Addr) (v : Byte)
  /-- `MemW(agent, a, v)`. -/
  | memW (agent : MemAgent) (a : Addr) (v : Byte)
  /-- `Frame(k, tx_byte, rx_byte, div)`. -/
  | frame (k : Nat) (txByte rxByte : Byte) (div : Divisor)
  /-- `DoneClr`. -/
  | doneClr
  /-- `DoneSet`. -/
  | doneSet
  /-- `IrqEntry`. -/
  | irqEntry
  /-- `IrqReturn`. -/
  | irqReturn
  deriving DecidableEq, Repr

/-- A range of addresses `[base, base + size)` of an admission set (20_memory.md R74). -/
structure Region where
  /-- The first address. -/
  base : Nat
  /-- How many addresses. -/
  size : Nat
  deriving DecidableEq, Repr

/-- Which instance of the oracle `Bus` a run has (R7 (b)); STALL is `none`. Log entry 7. -/
inductive BusModel where
  /-- Any bus: the free value `Config.bus`. -/
  | oracle
  /-- The loop-back bus, `Bus(k, b, div) = b`. -/
  | loopback
  /-- A stuck bus: every answer is STALL. -/
  | stalled
  /-- A bus whose answer to frame `k` is the `k`-th of the list, and free after its end. -/
  | answers (l : List (Option Byte))
  deriving DecidableEq, Repr

/-- The arbiter's policy (45_engines.md R254). -/
inductive ArbPolicy where
  /-- A free choice when both channels request. -/
  | any
  /-- RX is always granted when it requests. -/
  | rxFirst
  /-- TX is always granted when it requests. -/
  | txFirst
  deriving DecidableEq, Repr

/-- The parameters of a run (R63: not state of the block; no step changes them). -/
structure Launch where
  /-- `PROG`: the thread program (20_memory.md R76). Log entry 10. -/
  prog : List Word
  /-- `RD`: the addresses the block may read (R74). Log entry 18. -/
  rd : List Region
  /-- `WR`: the addresses the block may write (R74). Log entry 18. -/
  wr : List Region
  /-- `Bus` (R7 (b)). -/
  bus : BusModel
  /-- `irq_ok` (R7 (c)); `none` is "not fixed": the free value `Config.irqOk`. Log entry 8. -/
  irqOk : Option Bool
  /-- `ARB_POLICY` (R6). Log entry 9. -/
  arb : ArbPolicy
  deriving DecidableEq, Repr

/-- MODEL ONLY: the environment's choices a run has not used yet. Log entries 4 to 6. -/
structure Inputs where
  /-- The agents offered the next steps, oldest first; after its end `Config.nextActor` chooses. -/
  choices : List Actor
  /-- The next answers of ClockTree; after its end `Config.clockTree` answers. -/
  clocks : List ClockAnswer
  /-- How many steps have been taken. -/
  steps : Nat
  /-- How many clock answers have been drawn. -/
  draws : Nat
  deriving DecidableEq, Repr

/-- The state of the machine. -/
structure State where
  /-- S00 `CLK_ON` (R34). -/
  clkOn : Bool
  /-- S01 `PIN[TXL]` (R35). -/
  pinTxl : PinMode
  /-- S02 `PIN[RXL]` (R35). -/
  pinRxl : PinMode
  /-- S03 `WIRED` (R36). -/
  wired : Bool
  /-- S04 `IRQ.EN` (R44). -/
  irqEn : Bool
  /-- S05 `IRQ.PRIO` (R44). -/
  irqPrio : Option Nat
  /-- S06 `CLK.F` (R37). -/
  clkF : Option Freq
  /-- S07 `BRG.DIV` (R38). -/
  brgDiv : Option Divisor
  /-- S08 `BRG.RATE` (R39). -/
  brgRate : Option Rate
  /-- S09 `BRG.CNT` (R40). -/
  brgCnt : Option Divisor
  /-- The signal `baud_tick` (R8, R241). Log entry 16. -/
  baudTick : Bool
  /-- S10 `UE` (R41). -/
  ue : Bool
  /-- S11 `TDR` (R22). -/
  tdr : Option Byte
  /-- S12 `TXE` (R28). -/
  txe : Bool
  /-- S13 `TSR` (R24). -/
  tsr : Option Byte
  /-- S14 `BUSY` (R30). -/
  busy : Bool
  /-- S15 `FDIV` (R45). -/
  fdiv : Option Divisor
  /-- S16 `RDR` (R23). -/
  rdr : Option Byte
  /-- S17 `RXNE` (R29). -/
  rxne : Bool
  /-- S18 `DMAT` (R42). -/
  dmat : Bool
  /-- S19 `DMAR` (R42). -/
  dmar : Bool
  /-- S20 to S27: channel TX. -/
  tx : Channel
  /-- S28 to S35: channel RX. -/
  rx : Channel
  /-- S36 `RX.TCIE` (R43). -/
  rxTcie : Bool
  /-- S37 `DONE` (R32): false is pending, true is done. -/
  done : Bool
  /-- S38 `IRQ.ACTIVE` (R27): false is THREAD, true is HANDLER. -/
  irqActive : Bool
  /-- S39 `PC` (R25). -/
  pc : Nat
  /-- S40 `HPC` (R26). -/
  hpc : Nat
  /-- S41 `FAULT` (R33). -/
  fault : Option Fault
  /-- S42 `FRAMES` (R62). -/
  frames : Nat
  /-- S43 `H` (R62), oldest event first. -/
  hist : List Event
  /-- MEM (20_memory.md R71): the bytes that differ from what an unlisted address reads as. -/
  mem : List Host.Cell
  /-- The parameters of the run. -/
  launch : Launch
  /-- MODEL ONLY: the choices not used yet. -/
  inputs : Inputs
  deriving DecidableEq, Repr

/-- A channel after reset: the descriptor NONE, stopped, flag clear (R66). -/
def Channel.reset : Channel :=
  { paddr := none, maddr := none, cnt := none, dir := none, minc := none, pinc := none
    en := false, tc := false }

/-- No program, no admitted address, every oracle free. Log entries 7, 8, 9, 10, 18. -/
def Launch.reset : Launch :=
  { prog := [], rd := [], wr := [], bus := .oracle, irqOk := none, arb := .any }

/-- No scripted choice. Log entry 5. -/
def Inputs.reset : Inputs :=
  { choices := [], clocks := [], steps := 0, draws := 0 }

/-- The machine right after reset (R66, R320). -/
def State.reset : State :=
  { clkOn := false, pinTxl := .reset, pinRxl := .reset, wired := false
    irqEn := false, irqPrio := none
    clkF := none, brgDiv := none, brgRate := none, brgCnt := none, baudTick := false
    ue := false, tdr := none, txe := true, tsr := none, busy := false, fdiv := none
    rdr := none, rxne := false, dmat := false, dmar := false
    tx := Channel.reset, rx := Channel.reset, rxTcie := false
    done := false, irqActive := false, pc := 0, hpc := 0
    fault := none, frames := 0, hist := [], mem := []
    launch := Launch.reset, inputs := Inputs.reset }

end Sys2Proof.Machine
end

