-- ==== Sys2Proof/Machine/Ops.lean ====
section
/-! DEFINITION. The named operations over memory, registers and counters, the prelude of an
instruction (30_encoding.md R107), taking a fault (R10, R281), taking the interrupt (R292) and
returning from it (R202). -/

namespace Sys2Proof.Machine

/-- What a step or a meaning answers. -/
abbrev Result := Host.Outcome State Fault Refusal

/-! Space MEM (20_memory.md R71, R72). -/

/-- What an address of MEM reads as when nothing has been stored there. Log entry 2. -/
def Memory.unlisted : Byte := 0

/-- The byte at an address. -/
def Memory.read : List Host.Cell → Nat → Byte
  | [], _ => Memory.unlisted
  | (b, w) :: m, a => if a = b then w else Memory.read m a

/-- The memory without an entry for an address. -/
def Memory.erase : List Host.Cell → Nat → List Host.Cell
  | [], _ => []
  | (b, w) :: m, a => if a = b then Memory.erase m a else (b, w) :: Memory.erase m a

/-- The memory with an entry put in before the first higher address. -/
def Memory.insert : List Host.Cell → Nat → Byte → List Host.Cell
  | [], a, v => [(a, v)]
  | (b, w) :: m, a, v => if a < b then (a, v) :: (b, w) :: m else (b, w) :: Memory.insert m a v

/-- The memory after a byte is stored at an address, in canonical form. -/
def Memory.write (m : List Host.Cell) (a : Nat) (v : Byte) : List Host.Cell :=
  if v = Memory.unlisted then Memory.erase m a else Memory.insert (Memory.erase m a) a v

/-- Every entry lies at or above `low` and below `2^AW`, the addresses rise strictly, and no entry
equals what an unlisted address reads as. -/
def Memory.wfFrom : Nat → List Host.Cell → Bool
  | _, [] => true
  | low, (b, w) :: m =>
    low ≤ b && b < Config.addrSpace && w ≠ Memory.unlisted && Memory.wfFrom (b + 1) m

/-- The canonical form of a memory. -/
def Memory.wf (m : List Host.Cell) : Bool := Memory.wfFrom 0 m

/-- The byte of MEM at a 32-bit address in a state. -/
def State.byteAt (s : State) (a : Addr) : Byte := Memory.read s.mem a.toNat

/-! Admission (20_memory.md R74). -/

/-- An address lies in a range. -/
def Region.holds (r : Region) (a : Addr) : Bool :=
  r.base ≤ a.toNat && a.toNat < r.base + r.size

/-- An address lies in a set of ranges. -/
def inRegions (rs : List Region) (a : Addr) : Bool := rs.any fun r => r.holds a

/-- A read of `a` is admitted. -/
def State.mayRead (s : State) (a : Addr) : Bool := inRegions s.launch.rd a

/-- A write of `a` is admitted. -/
def State.mayWrite (s : State) (a : Addr) : Bool := inRegions s.launch.wr a

/-! The ghost history and the memory accesses that record events (R10, R62). -/

/-- Append an event to `H`. -/
def record (e : Event) (s : State) : State := { s with hist := s.hist ++ [e] }

/-- `MemWrite(a, 1, v)` by an agent, with its event. -/
def storeByte (agent : MemAgent) (a : Addr) (v : Byte) (s : State) : State :=
  record (.memW agent a v) { s with mem := Memory.write s.mem a.toNat v }

/-- `MemRead(a, 1)` by an agent: the event it records (the byte is `State.byteAt`). -/
def noteRead (agent : MemAgent) (a : Addr) (s : State) : State :=
  record (.memR agent a (s.byteAt a)) s

/-! Space PERIPH: the one location `DR_ADDR` (20_memory.md R73, 10_state.md R22, R23). -/

/-- A byte write to the data register: it goes to `TDR` and clears `TXE`. -/
def writeDataRegister (b : Byte) (s : State) : State :=
  { s with tdr := some b, txe := false }

/-- The side effect of a byte read of the data register: `RXNE` is cleared (the byte is `RDR`). -/
def afterDataRead (s : State) : State := { s with rxne := false }

/-! Counters. -/

/-- `PC <- PC + 1` of the executing context (R10, R26, R130). -/
def advance (s : State) : State :=
  { s with
    pc := if s.irqActive then s.pc else s.pc + 1
    hpc := if s.irqActive then s.hpc + 1 else s.hpc }

/-- An instruction ends with the implied `PC <- PC + 1` (R130). -/
def finish (s : State) : Result := .next (advance s)

/-- `hold`: no state change, `PC` unchanged (R10, R12). -/
def hold (s : State) : Result := .next s

/-! Taking a fault, the prelude, and the checks. -/

/-- `fault <NAME>`: the sticky record is set and no other state changes (R10, R33, R281). -/
def raise (f : Fault) (s : State) : Result := .next { s with fault := some f }

/-- One check of an instruction's pseudocode: the first that fails decides the fault (R107 (6)). -/
def require (ok : Bool) (f : Fault) (s : State) (rest : Result) : Result :=
  if ok then rest else raise f s

/-- The prelude of an instruction (R107): (1) the sticky fault, (4) the context the table of R105
allows, (5) the clock gate, then (6) the instruction's own rule. -/
def prelude (thread handler gated : Bool) (s : State) (rule : Result) : Result :=
  match s.fault with
  | some f => .fault f
  | none =>
    require (if s.irqActive then handler else thread) .context s <|
      require (!gated || s.clkOn) .unclocked s rule

/-- The prelude of a gated instruction of context THREAD. -/
def gatedThread (s : State) (rule : Result) : Result := prelude true false true s rule

/-- The prelude of an instruction of context THREAD that is not gated. -/
def freeThread (s : State) (rule : Result) : Result := prelude true false false s rule

/-- The prelude of an instruction of context HANDLER only, not gated. -/
def handlerOnly (s : State) (rule : Result) : Result := prelude false true false s rule

/-! The interrupt (60_exceptions.md R292, R294). -/

/-- The action of IRQ.entry: nothing is stacked, the thread's `PC` is kept (R292). -/
def takeInterrupt (s : State) : State :=
  record .irqEntry { s with irqActive := true, hpc := 0 }

/-- The action of IRET: `HPC` is left as it is (43_completion.md R202, 90_conflicts.md C12). -/
def returnFromInterrupt (s : State) : State :=
  record .irqReturn { s with irqActive := false }

/-! The environment's inputs (00_scope.md R7). Log entries 4, 6, 7, 8. -/

/-- The agent that is offered the next step. -/
def State.turn (s : State) : Actor :=
  match s.inputs.choices with
  | a :: _ => a
  | [] => Config.nextActor s.inputs.steps

/-- A step has been offered: the choice is used up. -/
def useChoice (s : State) : State :=
  { s with inputs := { s.inputs with
      choices := s.inputs.choices.tail, steps := s.inputs.steps + 1 } }

/-- The frequency an answer of the clock query stands for: 1 to `2^32 - 1` hertz. -/
def frequencyOf (c : ClockAnswer) : Freq := BitVec.ofNat 32 (c.val + 1)

/-- The answer the next draw of ClockTree gives (R7 (a)). -/
def State.clockAnswer (s : State) : Freq :=
  frequencyOf <| match s.inputs.clocks with
    | c :: _ => c
    | [] => Config.clockTree s.inputs.draws

/-- A clock answer has been drawn. -/
def useClock (s : State) : State :=
  { s with inputs := { s.inputs with
      clocks := s.inputs.clocks.tail, draws := s.inputs.draws + 1 } }

/-- `Bus(k, b, div)`; `none` is STALL (R7 (b)). -/
def busAnswer (bus : BusModel) (k : Nat) (b : Byte) (div : Divisor) : Option Byte :=
  match bus with
  | .oracle => Config.bus k b div
  | .loopback => some b
  | .stalled => none
  | .answers l =>
    match l[k]? with
    | some r => r
    | none => Config.bus k b div

/-- `irq_ok` (R7 (c)). -/
def State.irqOk (s : State) : Bool :=
  match s.launch.irqOk with
  | some b => b
  | none => Config.irqOk

/-! Channels (10_state.md R50 to R53). -/

/-- The six descriptor fields of a channel when none of them holds NONE. -/
structure Descriptor where
  /-- `c.PADDR`. -/
  paddr : Addr
  /-- `c.MADDR`. -/
  maddr : Addr
  /-- `c.CNT`. -/
  cnt : Len
  /-- `c.DIR`. -/
  dir : Bool
  /-- `c.MINC`. -/
  minc : Bool
  /-- `c.PINC`. -/
  pinc : Bool
  deriving DecidableEq, Repr

/-- The loaded descriptor of a channel, or nothing when a field holds NONE (R11). -/
def Channel.loaded (c : Channel) : Option Descriptor :=
  match c.paddr, c.maddr, c.cnt, c.dir, c.minc, c.pinc with
  | some p, some a, some n, some d, some mi, some pi =>
    some { paddr := p, maddr := a, cnt := n, dir := d, minc := mi, pinc := pi }
  | _, _, _, _, _, _ => none

/-- The next address of a side whose increment bit is `inc`, modulo `2^AW` (R51, 20_memory.md R75). -/
def nextAddr (inc : Bool) (a : Addr) : Addr := if inc then a + 1 else a

/-- A channel after one beat (R250, R252): the addresses step by their increment bits, the count
goes down by one, and the beat that takes it to 0 sets `TC` and clears `EN`. -/
def Channel.afterBeat (c : Channel) (d : Descriptor) : Channel :=
  { c with
    paddr := some (nextAddr d.pinc d.paddr)
    maddr := some (nextAddr d.minc d.maddr)
    cnt := some (d.cnt - 1)
    tc := c.tc || d.cnt - 1 = 0
    en := c.en && d.cnt - 1 ≠ 0 }

/-- Channel TX holds `c`. -/
def setTx (c : Channel) (s : State) : State := { s with tx := c }

/-- Channel RX holds `c`. -/
def setRx (c : Channel) (s : State) : State := { s with rx := c }

/-- The static load of a descriptor by DMAWIRE (R51, R134). -/
def Channel.wire (c : Channel) (dir : Bool) : Channel :=
  { c with paddr := some Config.drAddr, dir := some dir, minc := some true, pinc := some false }

/-! Reset as an event (R8 `rst_n`, R320). Log entry 19. -/

/-- The port `rst_n` asserted: every element of the block at its reset value; MEM, the run's
parameters and the environment's inputs are not the block's. -/
def applyReset (s : State) : State :=
  { State.reset with mem := s.mem, launch := s.launch, inputs := s.inputs }

end Sys2Proof.Machine
end

