-- ==== Sys2Proof/Machine/Operands.lean ====
section
/-! DEFINITION. What the operands mean: the divisor function of the baud-rate generator
(41_config.md R140), the buffer ranges (20_memory.md R75, R89), branch targets (R101, R131), and the
timing-only functions of the divisor (R141, R351, R352). -/

namespace Sys2Proof.Machine

/-- `BRG_DIV(f, rate)` over the naturals, `rate > 0` (R140). Log entry 25. -/
def brgDivisor (f rate : Nat) : Nat := (f + rate / 2) / rate

/-- A divisor the register can hold: 1 to `2^DIVW - 1` (R38, R138). -/
def divisorFits (d : Nat) : Bool := 0 < d && d ≤ Config.divMax

/-- The first address after a buffer of `n` bytes at `a`, over the naturals (R75). -/
def bufferEnd (a : Addr) (n : Len) : Nat := a.toNat + n.toNat

/-- The buffer `[a, a + n)` does not run past `2^AW` (R75). -/
def wellPlaced (a : Addr) (n : Len) : Bool := bufferEnd a n ≤ Config.addrSpace

/-- The two buffers of a transaction intersect (R89, R171). -/
def buffersOverlap (txAddr : Addr) (txLen : Len) (rxAddr : Addr) (rxLen : Len) : Bool :=
  0 < txLen.toNat && txAddr.toNat < bufferEnd rxAddr rxLen && rxAddr.toNat < bufferEnd txAddr txLen

/-- The counter a taken BUE goes to (R131). -/
def branchTarget (pc : Nat) (skip : BitVec 8) : Nat := pc + 1 + skip.toNat

/-- Bit 0 of a channel mask selects TX (R101). -/
def maskTx (m : BitVec 2) : Bool := m.getLsbD 0

/-- Bit 1 of a channel mask selects RX (R101). -/
def maskRx (m : BitVec 2) : Bool := m.getLsbD 1

/-- The mask that selects RX alone, `0b10` (R115, R203). -/
def maskRxOnly : BitVec 2 := 0b10

/-! Timing only: no functional rule reads these (R141, R351, R352). -/

/-- Cycles of `pclk` in one bit time (R351). -/
def bitCycles (d : Divisor) : Nat := d.toNat

/-- Cycles of `pclk` in one frame (R352). -/
def frameCycles (d : Divisor) : Nat := Config.frameBits * bitCycles d

/-- The achieved rate in bits per second, as an exact fraction (R141). -/
def achievedRate (f : Freq) (d : Divisor) : Rat := (f.toNat : Rat) / (d.toNat : Rat)

/-- The fewest cycles of `pclk` a transaction of `len` bytes lasts (R353). -/
def transactionCycles (d : Divisor) (len : Nat) : Nat := len * frameCycles d

end Sys2Proof.Machine
end

