-- ==== Sys2Proof/Machine/Flags.lean ====
section
/-! DEFINITION. The flags and the predicates computed from them: IRQ.LINE (R61), the DMA requests
(R249, R251), the idle predicate (R65), the clearing of status flags (R161), and the setting of the
engine's flags by the shift engine (R28, R29, R30). -/

namespace Sys2Proof.Machine

/-- `IRQ.LINE = RX.TC and RX.TCIE` (R61, R290). -/
def State.irqLine (s : State) : Bool := s.rx.tc && s.rxTcie

/-- `c.CNT > 0`; a count that holds NONE is not above 0. Log entry 13. -/
def Channel.hasBytes (c : Channel) : Bool :=
  match c.cnt with
  | some n => n ≠ 0
  | none => false

/-- `REQ.TX` (R249). -/
def State.reqTx (s : State) : Bool := s.dmat && s.txe && s.tx.en && s.tx.hasBytes

/-- `REQ.RX` (R251). -/
def State.reqRx (s : State) : Bool := s.dmar && s.rxne && s.rx.en && s.rx.hasBytes

/-- `IDLE` (R65). -/
def State.idle (s : State) : Bool :=
  !s.busy && s.txe && !s.rxne && !s.dmat && !s.dmar && !s.tx.en && !s.rx.en

/-- Both lines are connected to the engine (R35, R246). -/
def State.pinsReady (s : State) : Bool :=
  s.pinTxl = .afOdNoPull && s.pinRxl = .afOdNoPull

/-- Clear the status flags of the channels a mask selects: the one flag `TC` of each (R31, R161). -/
def clearFlags (m : BitVec 2) (s : State) : State :=
  { s with
    tx := { s.tx with tc := s.tx.tc && !maskTx m }
    rx := { s.rx with tc := s.rx.tc && !maskRx m } }

/-- The flags after SHIFT.start: `TXE` set, `BUSY` set (R28, R30, R244). -/
def flagsAfterStart (s : State) : State := { s with txe := true, busy := true }

/-- The flags after SHIFT.complete: `RXNE` set, `BUSY` cleared (R29, R30, R246). -/
def flagsAfterComplete (s : State) : State := { s with rxne := true, busy := false }

end Sys2Proof.Machine
end

