-- ==== Sys2Proof/Machine/Completion.lean ====
section
/-! DEFINITION. The family Completion Synchronization (43_completion.md): DONESET, IRET, and the
fixed handler program HPROG (R204). -/

namespace Sys2Proof.Machine

/-- DONESET (R201). -/
def execDoneset (s : State) : Result :=
  handlerOnly s <| finish <| record .doneSet { s with done := true }

/-- IRET (R202): nothing advances. -/
def execIret (s : State) : Result :=
  handlerOnly s <| .next (returnFromInterrupt s)

/-- HPROG, the pseudo-instruction `irq_handler`: DONESET, FCLR RX, IRET (R204). -/
def handlerProgram : List Word := [0x2000000000, 0x1000000002, 0x2100000000]

end Sys2Proof.Machine
end

