-- ==== Sys2Proof/Machine/Configuration.lean ====
section
/-! DEFINITION. The family Peripheral Configuration (41_config.md): BUE, CLKEN, PINCFG, DMAWIRE,
IRQEN, UEDIS, CLKRD, BRGLD, UEEN. -/

namespace Sys2Proof.Machine

/-- BUE (R131). -/
def execBue (skip : BitVec 8) (s : State) : Result :=
  freeThread s <| .next { s with pc := if s.ue then branchTarget s.pc skip else s.pc + 1 }

/-- CLKEN (R132). -/
def execClken (s : State) : Result :=
  freeThread s <| finish { s with clkOn := true }

/-- PINCFG (R133). -/
def execPincfg (s : State) : Result :=
  gatedThread s <| require s.idle .busy s <|
    finish { s with pinTxl := .afOdNoPull, pinRxl := .afOdNoPull }

/-- DMAWIRE (R134). -/
def execDmawire (s : State) : Result :=
  gatedThread s <| require s.idle .busy s <|
    finish { s with tx := s.tx.wire true, rx := s.rx.wire false, wired := true }

/-- IRQEN (R135). -/
def execIrqen (s : State) : Result :=
  freeThread s <| finish { s with irqPrio := some Config.irqPrio, irqEn := true }

/-- UEDIS (R136). `baud_tick` is 0 while `UE = 0` (45_engines.md R241). Log entry 16. -/
def execUedis (s : State) : Result :=
  gatedThread s <| require s.idle .busy s <| finish { s with ue := false, baudTick := false }

/-- CLKRD (R137). -/
def execClkrd (s : State) : Result :=
  freeThread s <|
    finish <| record (.clkRead s.clockAnswer) (useClock { s with clkF := some s.clockAnswer })

/-- BRGLD (R138). -/
def execBrgld (rate : Rate) (s : State) : Result :=
  gatedThread s <| require (!s.ue) .torn s <|
    match s.clkF with
    | none => raise .uninit s
    | some f =>
      require (rate ≠ 0) .divRange s <|
        let d := brgDivisor f.toNat rate.toNat
        require (divisorFits d) .divRange s <|
          finish <| record (.divLoad rate f (BitVec.ofNat 16 d))
            { s with brgDiv := some (BitVec.ofNat 16 d), brgRate := some rate }

/-- UEEN (R139). -/
def execUeen (s : State) : Result :=
  gatedThread s <|
    match s.brgDiv with
    | none => raise .uninit s
    | some d => finish (if s.ue then s else { s with ue := true, brgCnt := some d })

end Sys2Proof.Machine
end

