-- ==== Sys2Proof/Machine/Dma.lean ====
section
/-! DEFINITION. The family DMA Transceiver Path (42_dma_xfer.md): FCLR, LENLD.TX, MALD.TX, LENLD.RX,
MALD.RX, DONECLR, DRQEN, TCIEN, CHEN.RX, CHEN.TX, WDONE, DRQDIS. -/

namespace Sys2Proof.Machine

/-- FCLR (R161): both contexts; in HANDLER the mask must select RX alone. -/
def execFclr (m : BitVec 2) (s : State) : Result :=
  prelude true true true s <|
    require (!s.irqActive || m = maskRxOnly) .context s <| finish (clearFlags m s)

/-- LENLD.TX (R162). -/
def execLenldTx (len : Len) (s : State) : Result :=
  gatedThread s <| require (!s.tx.en) .busy s <|
    finish { s with tx := { s.tx with cnt := some len } }

/-- MALD.TX (R163). -/
def execMaldTx (addr : Addr) (s : State) : Result :=
  gatedThread s <| require (!s.tx.en) .busy s <|
    finish { s with tx := { s.tx with maddr := some addr } }

/-- LENLD.RX (R164). -/
def execLenldRx (len : Len) (s : State) : Result :=
  gatedThread s <| require (!s.rx.en) .busy s <|
    finish { s with rx := { s.rx with cnt := some len } }

/-- MALD.RX (R165). -/
def execMaldRx (addr : Addr) (s : State) : Result :=
  gatedThread s <| require (!s.rx.en) .busy s <|
    finish { s with rx := { s.rx with maddr := some addr } }

/-- DONECLR (R166). -/
def execDoneclr (s : State) : Result :=
  freeThread s <| require (!s.tx.en && !s.rx.en) .busy s <|
    finish <| record .doneClr { s with done := false }

/-- DRQEN (R167). -/
def execDrqen (s : State) : Result :=
  gatedThread s <| require s.ue .notConfigured s <| finish { s with dmat := true, dmar := true }

/-- TCIEN (R168). -/
def execTcien (s : State) : Result :=
  gatedThread s <| finish { s with rxTcie := true }

/-- CHEN.RX (R170). -/
def execChenRx (s : State) : Result :=
  gatedThread s <| require s.wired .notConfigured s <|
    match s.rx.maddr, s.rx.cnt with
    | some a, some n =>
      require (!s.rx.en) .busy s <| require (wellPlaced a n) .mem s <|
        finish { s with rx := { s.rx with en := true } }
    | _, _ => raise .uninit s

/-- CHEN.TX (R171). -/
def execChenTx (s : State) : Result :=
  gatedThread s <| require s.wired .notConfigured s <|
    match s.tx.maddr, s.tx.cnt, s.rx.maddr, s.rx.cnt with
    | some ta, some tn, some ra, some rn =>
      require (!s.tx.en) .busy s <| require (tn = rn) .lenMismatch s <|
        require (wellPlaced ta tn) .mem s <| require (!buffersOverlap ta tn ra rn) .overlap s <|
          finish { s with tx := { s.tx with en := true } }
    | _, _, _, _ => raise .uninit s

/-- WDONE (R172): the hint `h` changes nothing (60_exceptions.md R300). -/
def execWdone (_h : Bool) (s : State) : Result :=
  freeThread s <| if s.done then finish s else hold s

/-- DRQDIS (R173). -/
def execDrqdis (s : State) : Result :=
  gatedThread s <| finish { s with dmat := false, dmar := false }

end Sys2Proof.Machine
end

