-- ==== Sys2Proof/Machine/Polling.lean ====
section
/-! DEFINITION. The family Polling Transceiver Path (44_polling.md): PUT, WTXE, WRXNE, GET. -/

namespace Sys2Proof.Machine

/-- PUT (R221). -/
def execPut (addr : Addr) (s : State) : Result :=
  gatedThread s <| require s.ue .notConfigured s <| require s.txe .tdrOverwrite s <|
    require (s.mayRead addr) .mem s <|
      finish <| writeDataRegister (s.byteAt addr) (noteRead .host addr s)

/-- WTXE (R222). -/
def execWtxe (s : State) : Result :=
  gatedThread s <| if s.txe then finish s else hold s

/-- WRXNE (R223). -/
def execWrxne (s : State) : Result :=
  gatedThread s <| if s.rxne then finish s else hold s

/-- GET (R224); with `RXNE = 1` a receive register that holds NONE cannot arise (R224, R11). -/
def execGet (addr : Addr) (s : State) : Result :=
  gatedThread s <| require s.rxne .rdrEmpty s <| require (s.mayWrite addr) .mem s <|
    match s.rdr with
    | none => raise .uninit s
    | some b => finish <| afterDataRead (storeByte .host addr b s)

end Sys2Proof.Machine
end

