-- ==== Sys2Proof/Machine/Dispatch.lean ====
section
/-! DEFINITION. The meaning of each instruction, one arm per constructor (30_encoding.md R105, R107). -/

namespace Sys2Proof.Machine

/-- One instruction, prelude included (R107 (1), (4) to (6)). -/
def exec (i : Instr) (s : State) : Host.Outcome State Fault Refusal :=
  match i with
  | .bue k => Sys2Proof.Machine.execBue k s
  | .clken => Sys2Proof.Machine.execClken s
  | .pincfg => Sys2Proof.Machine.execPincfg s
  | .dmawire => Sys2Proof.Machine.execDmawire s
  | .irqen => Sys2Proof.Machine.execIrqen s
  | .uedis => Sys2Proof.Machine.execUedis s
  | .clkrd => Sys2Proof.Machine.execClkrd s
  | .brgld rate => Sys2Proof.Machine.execBrgld rate s
  | .ueen => Sys2Proof.Machine.execUeen s
  | .fclr m => Sys2Proof.Machine.execFclr m s
  | .lenldTx len => Sys2Proof.Machine.execLenldTx len s
  | .maldTx addr => Sys2Proof.Machine.execMaldTx addr s
  | .lenldRx len => Sys2Proof.Machine.execLenldRx len s
  | .maldRx addr => Sys2Proof.Machine.execMaldRx addr s
  | .doneclr => Sys2Proof.Machine.execDoneclr s
  | .drqen => Sys2Proof.Machine.execDrqen s
  | .tcien => Sys2Proof.Machine.execTcien s
  | .chenRx => Sys2Proof.Machine.execChenRx s
  | .chenTx => Sys2Proof.Machine.execChenTx s
  | .wdone h => Sys2Proof.Machine.execWdone h s
  | .drqdis => Sys2Proof.Machine.execDrqdis s
  | .doneset => Sys2Proof.Machine.execDoneset s
  | .iret => Sys2Proof.Machine.execIret s
  | .put addr => Sys2Proof.Machine.execPut addr s
  | .wtxe => Sys2Proof.Machine.execWtxe s
  | .wrxne => Sys2Proof.Machine.execWrxne s
  | .get addr => Sys2Proof.Machine.execGet addr s

end Sys2Proof.Machine
end

