-- ==== Sys2Proof/Machine/Engines.lean ====
section
/-! DEFINITION. The steps of the agents that are not HOST (45_engines.md, 60_exceptions.md R292):
for each its guard and its action, and the arbiter (R254). Every guard includes `FAULT = none`
(R240). A step that needs a value an element does not hold faults with FAULT_UNINIT (R11). -/

namespace Sys2Proof.Machine

/-! BRG.tick (R241). -/

/-- The guard of BRG.tick. -/
def brgTickReady (s : State) : Bool := s.fault.isNone && s.ue

/-- The action of BRG.tick: count down; at 1 or below reload from `BRG.DIV` and pulse `baud_tick`. -/
def brgTick (s : State) : Result :=
  match s.brgCnt with
  | none => raise .uninit s
  | some c =>
    if c.toNat ≤ 1 then
      match s.brgDiv with
      | none => raise .uninit s
      | some d => .next { s with brgCnt := some d, baudTick := true }
    else .next { s with brgCnt := some (c - 1), baudTick := false }

/-! SHIFT (R244, R246). -/

/-- The guard of SHIFT.start. -/
def shiftStartReady (s : State) : Bool := s.fault.isNone && s.ue && !s.txe && !s.busy

/-- The action of SHIFT.start. -/
def shiftStart (s : State) : Result :=
  match s.tdr, s.brgDiv with
  | some b, some d => .next (flagsAfterStart { s with tsr := some b, fdiv := some d })
  | _, _ => raise .uninit s

/-- What the receiver sees of the frame on the wire; `none` is STALL (R246). -/
def frameAnswer (s : State) (b : Byte) (d : Divisor) : Option Byte :=
  busAnswer s.launch.bus s.frames b d

/-- The bus lets the frame on the wire end. A frame without a byte or a divisor, which cannot arise,
does not wait for the bus: it faults (R11). Log entry 14. -/
def frameAnswered (s : State) : Bool :=
  match s.tsr, s.fdiv with
  | some b, some d => (frameAnswer s b d).isSome
  | _, _ => true

/-- The guard of SHIFT.complete, with the scheduling assumption R255. -/
def shiftCompleteReady (s : State) : Bool :=
  s.fault.isNone && s.busy && s.pinsReady && frameAnswered s && !s.reqRx

/-- The action of SHIFT.complete. -/
def shiftComplete (s : State) : Result :=
  match s.tsr, s.fdiv with
  | some b, some d =>
    match frameAnswer s b d with
    | some r =>
      require (!s.rxne) .overrun s <|
        .next <| record (.frame s.frames b r d)
          (flagsAfterComplete { s with rdr := some r, frames := s.frames + 1 })
    | none => hold s
  | _, _ => raise .uninit s

/-! The arbiter (R254) and the beats (R249 to R252). -/

/-- The guard of the DMA.TX beat: the channel requests and is granted. Under `any` the free choice of
the agent that is offered the step is the grant. -/
def dmaTxReady (s : State) : Bool :=
  s.fault.isNone && s.reqTx && !(s.launch.arb = .rxFirst && s.reqRx)

/-- The action of the DMA.TX beat (R250). -/
def dmaTxBeat (s : State) : Result :=
  match s.tx.loaded with
  | none => raise .uninit s
  | some d =>
    if d.dir then
      require (s.mayRead d.maddr) .mem s <|
        .next <| setTx (s.tx.afterBeat d) <|
          writeDataRegister (s.byteAt d.maddr) (noteRead .dmaTx d.maddr s)
    else .refused .descriptorDirection

/-- The guard of the DMA.RX beat. -/
def dmaRxReady (s : State) : Bool :=
  s.fault.isNone && s.reqRx && !(s.launch.arb = .txFirst && s.reqTx)

/-- The action of the DMA.RX beat (R252): the write to MEM and the setting of `RX.TC` are one step. -/
def dmaRxBeat (s : State) : Result :=
  match s.rx.loaded, s.rdr with
  | some d, some b =>
    if d.dir then .refused .descriptorDirection
    else
      require (s.mayWrite d.maddr) .mem s <|
        .next <| setRx (s.rx.afterBeat d) <| storeByte .dmaRx d.maddr b (afterDataRead s)
  | _, _ => raise .uninit s

/-! IRQ (60_exceptions.md R292). -/

/-- The guard of IRQ.entry. -/
def irqEntryReady (s : State) : Bool :=
  s.fault.isNone && s.irqLine && s.irqEn && !s.irqActive && s.irqOk

/-- The action of IRQ.entry. -/
def irqEntry (s : State) : Result := .next (takeInterrupt s)

/-- An agent that is offered a step takes it if its guard holds; otherwise it has no step and
nothing of the block changes (R12). Log entry 4. -/
def guarded (ready : Bool) (action : Result) (s : State) : Result :=
  if ready then action else hold s

end Sys2Proof.Machine
end

