-- ==== Sys2Proof/Machine/Sequencer.lean ====
section
/-! DEFINITION. HOST's fetch, decode and execution of one instruction (30_encoding.md R107), and
the step of whichever agent is offered one. -/

namespace Sys2Proof.Machine

/-- What HOST finds at its counter (R107 (2), (3)). -/
inductive Fetched where
  /-- A word that decodes. -/
  | instr (i : Instr)
  /-- A word that does not, with the fault it becomes. -/
  | illegal (f : Fault)
  /-- `PC = |PROG|`: the thread program has ended and HOST has no step. -/
  | ended
  /-- A counter past the program's end, which cannot arise (R25, R26). -/
  | nothing
  deriving DecidableEq, Repr

/-- A fetched word, decoded (R107 (3)). -/
def fetchedWord (w : Word) : Fetched :=
  match decode w with
  | .instr i => .instr i
  | .illegalOp => .illegal .illegalOp
  | .illegalImm => .illegal .illegalImm

/-- HOST's fetch: `PROG[PC]` in THREAD, `HPROG[HPC]` in HANDLER (20_memory.md R76). -/
def fetch (s : State) : Fetched :=
  if s.irqActive then
    match handlerProgram[s.hpc]? with
    | some w => fetchedWord w
    | none => .nothing
  else
    match s.launch.prog[s.pc]? with
    | some w => fetchedWord w
    | none => if s.pc = s.launch.prog.length then .ended else .nothing

/-- One step of HOST (R107). -/
def hostStep (s : State) : Result :=
  match fetch s with
  | .instr i => exec i s
  | .illegal f => raise f s
  | .ended => hold s
  | .nothing => .refused .noWordAtCounter

/-- The step of an agent (R5). -/
def actorStep (a : Actor) (s : State) : Result :=
  match a with
  | .host => hostStep s
  | .shiftStart => guarded (shiftStartReady s) (shiftStart s) s
  | .shiftComplete => guarded (shiftCompleteReady s) (shiftComplete s) s
  | .dmaTx => guarded (dmaTxReady s) (dmaTxBeat s) s
  | .dmaRx => guarded (dmaRxReady s) (dmaRxBeat s) s
  | .irqEntry => guarded (irqEntryReady s) (irqEntry s) s
  | .brgTick => guarded (brgTickReady s) (brgTick s) s

/-- One step of the machine: no agent has a step once `FAULT` is set (R33, R282); otherwise the agent
whose turn it is is offered one, and its choice is used up. -/
def machineStep (s : State) : Result :=
  match s.fault with
  | some f => .fault f
  | none => actorStep s.turn (useChoice s)

/-- A program with a word put at index `n`; words missing below it are reserved words, which are
never fetched first. -/
def placeWord (prog : List Word) (n : Nat) (w : Word) : List Word :=
  prog.take n ++ List.replicate (n - prog.length) 0 ++ w :: prog.drop (n + 1)

/-- The state whose next step fetches and runs the word `w`: the word stands at `PROG[PC]`, HOST is
offered the next step, in context THREAD, with no fault recorded. Log entries 10, 11. -/
def readyToRun (s : State) (w : Word) : State :=
  { s with
    launch := { s.launch with prog := placeWord s.launch.prog s.pc w }
    inputs := { s.inputs with choices := .host :: s.inputs.choices }
    irqActive := false
    fault := none }

end Sys2Proof.Machine
end

