-- ==== Sys2Proof/Machine/Pseudo.lean ====
section
/-! DEFINITION. The pseudo-instructions (30_encoding.md R116): `configure` (41_config.md R142),
`transfer` on either path (42_dma_xfer.md R175, R176; 44_polling.md R226). The expansion is the only
definition of each; `none` is a refused pseudo-instruction. `irq_handler` is `handlerProgram`. -/

namespace Sys2Proof.Machine

/-- `configure rate` (R142). -/
def configure (rate : Rate) : List Instr :=
  [.bue 4, .clken, .pincfg, .dmawire, .irqen, .uedis, .clkrd, .brgld rate, .ueen]

/-- The twelve instructions of R175. -/
def dmaSequence (tx rx : Addr) (len : Len) (h : Bool) : List Instr :=
  [.fclr 0b11, .lenldTx len, .maldTx tx, .lenldRx len, .maldRx rx, .doneclr, .drqen, .tcien,
    .chenRx, .chenTx, .wdone h, .drqdis]

/-- The four instructions of position `i` of the polling path (R226). -/
def pollPosition (tx rx : Addr) (i : Nat) : List Instr :=
  [.put (tx + BitVec.ofNat 32 i), .wtxe, .wrxne, .get (rx + BitVec.ofNat 32 i)]

/-- The positions `i, i + 1, ..., i + n - 1` of the polling path. -/
def pollSequence (tx rx : Addr) : Nat → Nat → List Instr
  | _, 0 => []
  | i, n + 1 => pollPosition tx rx i ++ pollSequence tx rx (i + 1) n

/-- The ranges the polling form refuses because the DMA form faults on them at CHEN.c: one that
runs past `2^AW`, or two that overlap (R226). -/
def pollRefuses (tx rx : Addr) (len : Len) : Bool :=
  !wellPlaced tx len || !wellPlaced rx len || buffersOverlap tx len rx len

/-- `transfer tx, rx, len` (R175, R176, R226): refused above 65535, empty for 0; `h` is the hint of
WDONE, at the implementer's choice. -/
def transfer (path : XferPath) (tx rx : Addr) (len : Nat) (h : Bool) : Option (List Instr) :=
  if Config.lenMax < len then none
  else if len = 0 then some []
  else
    match path with
    | .dma => some (dmaSequence tx rx (BitVec.ofNat 16 len) h)
    | .poll =>
      if pollRefuses tx rx (BitVec.ofNat 16 len) then none else some (pollSequence tx rx 0 len)

/-- The words of a sequence of instructions, as they stand in PROG. -/
def words (l : List Instr) : List Word := l.map encode

end Sys2Proof.Machine
end

