-- ==== Sys2Proof/Safety.lean ====
section
/-! DEFINITION. The terms claims are stated in: when an instruction reaches its own rule (R107), the
states of the source's state machine (R64), the launch premises (R361), the end of a run (R360), weak
fairness (R240), the coherence of the state, the balance of a DMA transaction (R257), and which
element of the state each instruction and agent may write (the column "written by" of R66). -/

namespace Sys2Proof.Machine

/-! Reaching an instruction's own rule (R107). -/

/-- The step takes the fault: the record is set and nothing else changes (R281). -/
def faultsWith (f : Fault) (s : State) (r : Result) : Prop :=
  r = .next { s with fault := some f }

/-- No fault, context THREAD. -/
def ThreadReady (s : State) : Prop := s.fault = none ∧ s.irqActive = false

/-- No fault, context THREAD, clocks on. -/
def GatedReady (s : State) : Prop := s.fault = none ∧ s.irqActive = false ∧ s.clkOn = true

/-- No fault, context HANDLER. -/
def HandlerReady (s : State) : Prop := s.fault = none ∧ s.irqActive = true

/-- The context the state is in is one the table of R105 allows the instruction. -/
def Allowed (i : Instr) (s : State) : Prop :=
  (if s.irqActive then i.inHandler else i.inThread) = true

/-! The state machine of the source (R64) and the launch premises (R361). -/

/-- `Uninitialized` (R64). -/
def Uninitialized (s : State) : Prop := s.ue = false ∧ s.brgRate = none

/-- `Configured(r)` (R64). -/
def Configured (r : Rate) (s : State) : Prop :=
  s.ue = true ∧ s.brgRate = some r ∧ s.clkOn = true ∧ s.pinTxl = .afOdNoPull ∧
    s.pinRxl = .afOdNoPull ∧ s.wired = true ∧ s.irqEn = true

/-- `ConfiguredIdle(r)` (R361). -/
def ConfiguredIdle (r : Rate) (s : State) : Prop :=
  Configured r s ∧ s.idle = true ∧ s.fault = none ∧ s.irqActive = false

/-- `Admitted(tx, rx, len)` (R89, R361). -/
def Admitted (s : State) (tx rx : Addr) (len : Nat) : Prop :=
  tx.toNat + len ≤ Config.addrSpace ∧ rx.toNat + len ≤ Config.addrSpace ∧
    (∀ i, i < len → s.mayRead (tx + BitVec.ofNat 32 i) = true) ∧
    (∀ i, i < len → s.mayWrite (rx + BitVec.ofNat 32 i) = true) ∧
    (tx.toNat + len ≤ rx.toNat ∨ rx.toNat + len ≤ tx.toNat)

/-- `BusOk`: the bus never answers STALL (R361). -/
def BusOk (s : State) : Prop := ∀ k b d, (busAnswer s.launch.bus k b d).isSome = true

/-- `IrqOk` (R361). -/
def IrqOk (s : State) : Prop := s.irqOk = true

/-- `Loopback` (R361). -/
def Loopback (s : State) : Prop := ∀ k b d, busAnswer s.launch.bus k b d = some b

/-- A run, which is of an accepted thread program (R111), has ended well (R360). -/
def EndedWell (s : State) : Prop :=
  programAccepted s.launch.prog = true ∧ s.pc = s.launch.prog.length ∧
    s.irqActive = false ∧ s.fault = none ∧ s.busy = false ∧ s.txe = true ∧ s.reqTx = false ∧
    s.reqRx = false ∧ irqEntryReady s = false

/-! Executions and weak fairness (R82, R240). A refused program has none (30_encoding.md R111): the
step function is total, and it is these definitions that hold the program check. -/

/-- An infinite execution: its thread program is accepted, and each state is followed by the one the
step gives. -/
def Execution (e : Nat → State) : Prop :=
  programAccepted (e 0).launch.prog = true ∧ ∀ n, step (e n) = .next (e (n + 1))

/-- A finite execution leads from `s` to a state: the thread program of `s` is accepted, and each
state is followed by the one the step gives. -/
inductive Reaches (s : State) : State → Prop where
  /-- No step has been taken. -/
  | start (accepted : programAccepted s.launch.prog = true) : Reaches s s
  /-- One more step. -/
  | next {t u : State} (before : Reaches s t) (taken : step t = .next u) : Reaches s u

/-- The guard of an agent's step; HOST's is that it finds a word. -/
def actorReady (a : Actor) (s : State) : Bool :=
  match a with
  | .host => s.fault.isNone && fetch s ≠ .ended
  | .shiftStart => shiftStartReady s
  | .shiftComplete => shiftCompleteReady s
  | .dmaTx => dmaTxReady s
  | .dmaRx => dmaRxReady s
  | .irqEntry => irqEntryReady s
  | .brgTick => brgTickReady s

/-- An agent whose guard holds from some point on for ever is offered a step again and again (R240). -/
def WeaklyFair (e : Nat → State) : Prop :=
  ∀ a n, (∀ m, n ≤ m → actorReady a (e m) = true) → ∃ m, n ≤ m ∧ (e m).turn = a

/-- `n` steps of BRG.tick in a row, stopping at the first that is no next state. -/
def brgTicks : Nat → State → Result
  | 0, s => .next s
  | n + 1, s =>
    match brgTicks n s with
    | .next t => actorStep .brgTick t
    | .fault f => .fault f
    | .refused r => .refused r

/-! The coherence of the state. -/

/-- The static fields hold what DMAWIRE loads (R51). -/
def Channel.isWired (c : Channel) (dir : Bool) : Prop :=
  c.paddr = some Config.drAddr ∧ c.dir = some dir ∧ c.minc = some true ∧ c.pinc = some false

/-- The per-transaction fields are loaded and the range does not wrap (R52, R75). -/
def Channel.isLoaded (c : Channel) : Prop :=
  ∃ a n, c.maddr = some a ∧ c.cnt = some n ∧ wellPlaced a n = true

/-- What the rules make true of every reachable state. -/
structure Coherent (s : State) : Prop where
  /-- MEM is in canonical form. -/
  memory : Memory.wf s.mem = true
  /-- Both request lines are switched together (R42). -/
  requestLines : s.dmat = s.dmar
  /-- Both lines are programmed together (R35). -/
  pins : s.pinTxl = s.pinRxl
  /-- The clock query never answers 0 (R7, R37). -/
  clock : s.clkF ≠ some 0
  /-- A loaded divisor is 1 to 65535 (R38). -/
  divisor : s.brgDiv ≠ some 0
  /-- While the engine is enabled the divisor is loaded and the counter is 1 to the divisor (R139, R241). -/
  counter : s.ue = true → ∃ c d, s.brgCnt = some c ∧ s.brgDiv = some d ∧ 1 ≤ c.toNat ∧ c.toNat ≤ d.toNat
  /-- The engine is enabled only with its clock on (R139, R105). -/
  enabledClocked : s.ue = true → s.clkOn = true
  /-- The channels are wired only with the clock on (R134, R105). -/
  wiredClocked : s.wired = true → s.clkOn = true
  /-- The interrupt source is enabled only with the clock on (R168, R105). -/
  sourceClocked : s.rxTcie = true → s.clkOn = true
  /-- `baud_tick` is 0 while `UE = 0` (R241). -/
  tick : s.ue = false → s.baudTick = false
  /-- A full transmit register holds a byte (R244). -/
  transmit : s.txe = false → s.tdr.isSome = true
  /-- A full receive register holds a byte (R224). -/
  receive : s.rxne = true → s.rdr.isSome = true
  /-- A frame on the wire has its byte, and its divisor is still the one in force (R242). -/
  frame : s.busy = true → s.tsr.isSome = true ∧ s.fdiv = s.brgDiv
  /-- What makes the block not idle keeps the engine enabled (R136). -/
  active : s.busy = true ∨ s.txe = false ∨ s.rxne = true ∨ s.dmat = true → s.ue = true
  /-- The static fields hold (R51). -/
  wiring : s.wired = true → s.tx.isWired true ∧ s.rx.isWired false
  /-- A started TX channel is wired and loaded (R171). -/
  startedTx : s.tx.en = true → s.wired = true ∧ s.tx.isLoaded
  /-- A started RX channel is wired and loaded (R170). -/
  startedRx : s.rx.en = true → s.wired = true ∧ s.rx.isLoaded
  /-- The handler's counter stays inside HPROG (R204). -/
  handlerCounter : s.hpc ≤ 2
  /-- The handler runs only for an enabled completion (R205), holds the request until FCLR (R206 (4))
  and has set the flag after DONESET (R206 (3)). -/
  handler : s.irqActive = true → s.irqEn = true ∧ s.rxTcie = true ∧
    (s.hpc ≤ 1 → s.rx.tc = true) ∧ (1 ≤ s.hpc → s.done = true)

/-! A DMA transaction in flight (R257). -/

/-- 1 for a condition that holds, 0 otherwise. -/
def oneIf (b : Bool) : Nat := if b then 1 else 0

/-- The bytes handed over by TX beats that have not reached MEM: one in `TDR`, one on the wire, one in
`RDR` (R257). -/
def bytesInside (s : State) : Nat := oneIf (!s.txe) + oneIf s.busy + oneIf s.rxne

/-- The counts of a transaction in flight: RX lags TX by the bytes inside the engine, the RX request
line is on, and channel RX is started while it has bytes left (R257). -/
def InFlight (s : State) : Prop :=
  ∃ t r : Len, s.tx.cnt = some t ∧ s.rx.cnt = some r ∧ r.toNat = t.toNat + bytesInside s ∧
    s.dmar = true ∧ (r ≠ 0 → s.rx.en = true)

/-- A transaction of `n` bytes from `tx` to `rx` in flight on the loop-back bus, with every byte where
its order puts it: `img i` is byte `i` of the outgoing buffer (R90, R247, R257). -/
structure Echoing (tx rx : Addr) (n : Nat) (img : Nat → Byte) (s : State) : Prop where
  /-- The bus is the loop-back. -/
  bus : Loopback s
  /-- Neither range wraps (R75). -/
  placed : tx.toNat + n ≤ Config.addrSpace ∧ rx.toNat + n ≤ Config.addrSpace
  /-- The ranges are disjoint (R89). -/
  disjoint : tx.toNat + n ≤ rx.toNat ∨ rx.toNat + n ≤ tx.toNat
  /-- Both channels are wired (R51). -/
  wiring : s.tx.isWired true ∧ s.rx.isWired false
  /-- The counts and addresses, and what follows from them for every byte. -/
  progress : ∃ t r : Len, s.tx.cnt = some t ∧ s.rx.cnt = some r ∧ r.toNat ≤ n ∧
    r.toNat = t.toNat + bytesInside s ∧ s.dmar = true ∧ (r ≠ 0 → s.rx.en = true) ∧
    s.tx.maddr = some (tx + BitVec.ofNat 32 (n - t.toNat)) ∧
    s.rx.maddr = some (rx + BitVec.ofNat 32 (n - r.toNat)) ∧
    (∀ i, i < n → s.byteAt (tx + BitVec.ofNat 32 i) = img i) ∧
    (∀ i, i < n - r.toNat → s.byteAt (rx + BitVec.ofNat 32 i) = img i) ∧
    (s.rxne = true → s.rdr = some (img (n - r.toNat))) ∧
    (s.busy = true → s.tsr = some (img (n - r.toNat + oneIf s.rxne)) ∧ s.fdiv.isSome = true) ∧
    (s.txe = false → s.tdr = some (img (n - r.toNat + oneIf s.rxne + oneIf s.busy)))

/-! Who may write what (R66). -/

/-- The elements of the state of the block (R66), the signal `baud_tick` (R241), and MEM. -/
inductive Element where
  | clkOn | pinTxl | pinRxl | wired | irqEn | irqPrio | clkF | brgDiv | brgRate | brgCnt | ue
  | tdr | txe | tsr | busy | fdiv | rdr | rxne | dmat | dmar
  | txPaddr | txMaddr | txCnt | txDir | txMinc | txPinc | txEn | txTc
  | rxPaddr | rxMaddr | rxCnt | rxDir | rxMinc | rxPinc | rxEn | rxTc | rxTcie
  | done | irqActive | pc | hpc | fault | frames | hist | baudTick | mem
  deriving DecidableEq, Repr

/-- An element holds the same in two states. -/
def Element.same (e : Element) (s t : State) : Prop :=
  match e with
  | .clkOn => t.clkOn = s.clkOn
  | .pinTxl => t.pinTxl = s.pinTxl
  | .pinRxl => t.pinRxl = s.pinRxl
  | .wired => t.wired = s.wired
  | .irqEn => t.irqEn = s.irqEn
  | .irqPrio => t.irqPrio = s.irqPrio
  | .clkF => t.clkF = s.clkF
  | .brgDiv => t.brgDiv = s.brgDiv
  | .brgRate => t.brgRate = s.brgRate
  | .brgCnt => t.brgCnt = s.brgCnt
  | .ue => t.ue = s.ue
  | .tdr => t.tdr = s.tdr
  | .txe => t.txe = s.txe
  | .tsr => t.tsr = s.tsr
  | .busy => t.busy = s.busy
  | .fdiv => t.fdiv = s.fdiv
  | .rdr => t.rdr = s.rdr
  | .rxne => t.rxne = s.rxne
  | .dmat => t.dmat = s.dmat
  | .dmar => t.dmar = s.dmar
  | .txPaddr => t.tx.paddr = s.tx.paddr
  | .txMaddr => t.tx.maddr = s.tx.maddr
  | .txCnt => t.tx.cnt = s.tx.cnt
  | .txDir => t.tx.dir = s.tx.dir
  | .txMinc => t.tx.minc = s.tx.minc
  | .txPinc => t.tx.pinc = s.tx.pinc
  | .txEn => t.tx.en = s.tx.en
  | .txTc => t.tx.tc = s.tx.tc
  | .rxPaddr => t.rx.paddr = s.rx.paddr
  | .rxMaddr => t.rx.maddr = s.rx.maddr
  | .rxCnt => t.rx.cnt = s.rx.cnt
  | .rxDir => t.rx.dir = s.rx.dir
  | .rxMinc => t.rx.minc = s.rx.minc
  | .rxPinc => t.rx.pinc = s.rx.pinc
  | .rxEn => t.rx.en = s.rx.en
  | .rxTc => t.rx.tc = s.rx.tc
  | .rxTcie => t.rxTcie = s.rxTcie
  | .done => t.done = s.done
  | .irqActive => t.irqActive = s.irqActive
  | .pc => t.pc = s.pc
  | .hpc => t.hpc = s.hpc
  | .fault => t.fault = s.fault
  | .frames => t.frames = s.frames
  | .hist => t.hist = s.hist
  | .baudTick => t.baudTick = s.baudTick
  | .mem => ∀ a, t.byteAt a = s.byteAt a

/-- What an instruction may write, from the column "written by" of R66; every instruction of THREAD
may write `PC`, every instruction of HANDLER but IRET `HPC`, any step `FAULT`. -/
def instrWrites : Instr → List Element
  | .bue _ => [.pc, .fault]
  | .clken => [.clkOn, .pc, .fault]
  | .pincfg => [.pinTxl, .pinRxl, .pc, .fault]
  | .dmawire => [.wired, .txPaddr, .txDir, .txMinc, .txPinc, .rxPaddr, .rxDir, .rxMinc, .rxPinc,
      .pc, .fault]
  | .irqen => [.irqEn, .irqPrio, .pc, .fault]
  | .uedis => [.ue, .baudTick, .pc, .fault]
  | .clkrd => [.clkF, .hist, .pc, .fault]
  | .brgld _ => [.brgDiv, .brgRate, .hist, .pc, .fault]
  | .ueen => [.ue, .brgCnt, .pc, .fault]
  | .fclr _ => [.txTc, .rxTc, .pc, .hpc, .fault]
  | .lenldTx _ => [.txCnt, .pc, .fault]
  | .maldTx _ => [.txMaddr, .pc, .fault]
  | .lenldRx _ => [.rxCnt, .pc, .fault]
  | .maldRx _ => [.rxMaddr, .pc, .fault]
  | .doneclr => [.done, .hist, .pc, .fault]
  | .drqen => [.dmat, .dmar, .pc, .fault]
  | .tcien => [.rxTcie, .pc, .fault]
  | .chenRx => [.rxEn, .pc, .fault]
  | .chenTx => [.txEn, .pc, .fault]
  | .wdone _ => [.pc, .fault]
  | .drqdis => [.dmat, .dmar, .pc, .fault]
  | .doneset => [.done, .hist, .hpc, .fault]
  | .iret => [.irqActive, .hist, .fault]
  | .put _ => [.tdr, .txe, .hist, .pc, .fault]
  | .wtxe => [.pc, .fault]
  | .wrxne => [.pc, .fault]
  | .get _ => [.rxne, .mem, .hist, .pc, .fault]

/-- What an agent's step may write, from the column "written by" of R66. HOST's steps write what the
instruction may. -/
def agentWrites : Actor → List Element
  | .host => []
  | .shiftStart => [.tsr, .txe, .busy, .fdiv, .fault]
  | .shiftComplete => [.rdr, .rxne, .busy, .frames, .hist, .fault]
  | .dmaTx => [.tdr, .txe, .txMaddr, .txCnt, .txTc, .txEn, .hist, .fault]
  | .dmaRx => [.rxne, .rxMaddr, .rxCnt, .rxTc, .rxEn, .mem, .hist, .fault]
  | .irqEntry => [.irqActive, .hpc, .hist, .fault]
  | .brgTick => [.brgCnt, .baudTick, .fault]

/-- The families of the opcode map (R105). -/
inductive Family where
  /-- 0x0_: Peripheral Configuration. -/
  | configuration
  /-- 0x1_: DMA Transceiver Path. -/
  | dma
  /-- 0x2_: Completion Synchronization. -/
  | completion
  /-- 0x3_: Polling Transceiver Path. -/
  | polling
  deriving DecidableEq, Repr

/-- The family of an instruction: the high digit of its opcode (R105). -/
def instrFamily : Instr → Family
  | .bue _ => .configuration
  | .clken => .configuration
  | .pincfg => .configuration
  | .dmawire => .configuration
  | .irqen => .configuration
  | .uedis => .configuration
  | .clkrd => .configuration
  | .brgld _ => .configuration
  | .ueen => .configuration
  | .fclr _ => .dma
  | .lenldTx _ => .dma
  | .maldTx _ => .dma
  | .lenldRx _ => .dma
  | .maldRx _ => .dma
  | .doneclr => .dma
  | .drqen => .dma
  | .tcien => .dma
  | .chenRx => .dma
  | .chenTx => .dma
  | .wdone _ => .dma
  | .drqdis => .dma
  | .doneset => .completion
  | .iret => .completion
  | .put _ => .polling
  | .wtxe => .polling
  | .wrxne => .polling
  | .get _ => .polling

end Sys2Proof.Machine
end

