-- ==== Sys2Proof/Certificates/Slice0/Obligations.lean ====
section
/-! DEFINITION. The statements for the provers. Each docstring names the rules of spec/ it states;
OBLIGATIONS.json lists them. "Faults with X" is `faultsWith`: FAULT is set and nothing else changes. -/

open Sys2Proof Sys2Proof.Machine

/-! Encoding (30_encoding.md). -/

/-- R101, R105, R106: decoding the word of a well-formed instruction gives it back, operands included. -/
def Obligations.DecodeInvertsEncode : Prop :=
  ∀ i : Instr, i.wellFormed = true → decode (encode i) = .instr i

/-- R101, R106: a word that decodes is the one word of a well-formed instruction. -/
def Obligations.EncodeInvertsDecode : Prop :=
  ∀ (w : Word) (i : Instr), decode w = .instr i → encode i = w ∧ i.wellFormed = true

/-- R110: which words are ILLEGAL_OP, which are ILLEGAL_IMM, and the two named words. -/
def Obligations.IllegalWords : Prop :=
  (∀ w : Word, decode w = .illegalOp ↔ ∀ i : Instr, i.opcode ≠ w.extractLsb' 32 8) ∧
  (∀ w : Word, decode w = .illegalImm ↔
    (∃ i : Instr, i.opcode = w.extractLsb' 32 8) ∧
      ∀ i : Instr, i.wellFormed = true → encode i ≠ w) ∧
  decode 0x0000000000 = .illegalOp ∧ decode 0xFFFFFFFFFF = .illegalOp

/-- R106: a word matches the row of an instruction exactly when the masked bits are the match value;
then, extra constraint aside, it decodes to an instruction of that row. -/
def Obligations.MaskAndMatch : Prop :=
  ∀ (w : Word) (i : Instr),
    (decode w = .instr i → w &&& i.maskWord = i.matchWord) ∧
    (w &&& i.maskWord = i.matchWord → (i.opcode = 0x10 → w.extractLsb' 0 2 ≠ 0#2) →
      ∃ j : Instr, decode w = .instr j ∧ j.opcode = i.opcode)

/-- R105, R106, R204: words of every format, and HPROG, decode to what the spec says they are. -/
def Obligations.SpecWordsDecode : Prop :=
  decode 0x0100000004 = .instr (.bue 4) ∧ decode 0x0800002580 = .instr (.brgld 9600) ∧
  decode 0x1000000002 = .instr (.fclr 2) ∧ decode 0x110000FFFF = .instr (.lenldTx 65535) ∧
  decode 0x14CAFEF00D = .instr (.maldRx 0xCAFEF00D) ∧ decode 0x1A00000001 = .instr (.wdone true) ∧
  decode 0x3320000100 = .instr (.get 0x20000100) ∧
  handlerProgram.map decode = [.instr .doneset, .instr (.fclr 2), .instr .iret]

/-- R111, R116, R142, R175, R226: every expansion of a pseudo-instruction is an accepted program. -/
def Obligations.ExpansionsAccepted : Prop :=
  (∀ rate : Rate, programAccepted (words (configure rate)) = true) ∧
  ∀ (path : XferPath) (tx rx : Addr) (len : Nat) (h : Bool) (l : List Instr),
    transfer path tx rx len h = some l → programAccepted (words l) = true

/-- R226, R170, R171: the polling form refuses exactly the operands on which the DMA form, from a
state ready for it, faults at CHEN.RX or CHEN.TX. -/
def Obligations.PollRefusesWhereDmaFaults : Prop :=
  ∀ (tx rx : Addr) (len : Len) (s : State), GatedReady s → s.wired = true → s.tx.en = false →
    s.rx.en = false → s.tx.maddr = some tx → s.tx.cnt = some len → s.rx.maddr = some rx →
    s.rx.cnt = some len →
    (pollRefuses tx rx len = false ↔
      ∃ t u, exec .chenRx s = .next t ∧ t.fault = none ∧ exec .chenTx t = .next u ∧ u.fault = none)

/-! Fetch and prelude (R107). -/

/-- R107 (2), (3), (6): the step runs the decoded instruction, and `withFetchWord` puts one there. -/
def Obligations.StepRunsFetchedInstruction : Prop :=
  (∀ (s : State) (w : Word) (i : Instr), s.fault = none → s.turn = .host → decode w = .instr i →
    (s.irqActive = false → s.launch.prog[s.pc]? = some w → step s = exec i (useChoice s)) ∧
    (s.irqActive = true → [(0x2000000000 : Word), 0x1000000002, 0x2100000000][s.hpc]? = some w →
      step s = exec i (useChoice s))) ∧
  (∀ (s : State) (w : Nat) (i : Instr), decodeTableWord 40 w = some i →
    step (s.withFetchWord 40 w) = exec i (useChoice (s.withFetchWord 40 w)))

/-- R107 (1) to (6): HOST's step, check by check. -/
def Obligations.HostStepChecksInOrder : Prop :=
  ∀ s : State, s.turn = .host →
    (∀ f, s.fault = some f → step s = .fault f) ∧
    (s.fault = none → s.irqActive = false → s.pc = s.launch.prog.length →
      step s = .next (useChoice s)) ∧
    (s.fault = none → ∀ w : Word,
      (s.irqActive = false ∧ s.launch.prog[s.pc]? = some w) ∨
        (s.irqActive = true ∧ handlerProgram[s.hpc]? = some w) →
      (decode w = .illegalOp → faultsWith .illegalOp (useChoice s) (step s)) ∧
      (decode w = .illegalImm → faultsWith .illegalImm (useChoice s) (step s)) ∧
      ∀ i : Instr, decode w = .instr i →
        (¬ Allowed i s → faultsWith .context (useChoice s) (step s)) ∧
        (Allowed i s → i.gated = true → s.clkOn = false →
          faultsWith .unclocked (useChoice s) (step s)) ∧
        step s = exec i (useChoice s))

/-! Reset (R66, R320). -/

/-- R66, R320: every element at the reset value the table gives it; the state is `Uninitialized`. That
`TXE` is 1 is the spec's general knowledge (R28, log entry 25). -/
def Obligations.ResetValues : Prop :=
  let s := State.reset
  Uninitialized s ∧
  s.clkOn = false ∧ s.pinTxl = .reset ∧ s.pinRxl = .reset ∧ s.wired = false ∧ s.irqEn = false ∧
  s.irqPrio = none ∧ s.clkF = none ∧ s.brgDiv = none ∧ s.brgRate = none ∧ s.brgCnt = none ∧
  s.ue = false ∧ s.tdr = none ∧ s.txe = true ∧ s.tsr = none ∧ s.busy = false ∧ s.fdiv = none ∧
  s.rdr = none ∧ s.rxne = false ∧ s.dmat = false ∧ s.dmar = false ∧
  s.tx.paddr = none ∧ s.tx.maddr = none ∧ s.tx.cnt = none ∧ s.tx.dir = none ∧ s.tx.minc = none ∧
  s.tx.pinc = none ∧ s.tx.en = false ∧ s.tx.tc = false ∧
  s.rx.paddr = none ∧ s.rx.maddr = none ∧ s.rx.cnt = none ∧ s.rx.dir = none ∧ s.rx.minc = none ∧
  s.rx.pinc = none ∧ s.rx.en = false ∧ s.rx.tc = false ∧ s.rxTcie = false ∧
  s.done = false ∧ s.irqActive = false ∧ s.pc = 0 ∧ s.hpc = 0 ∧ s.fault = none ∧ s.frames = 0 ∧
  s.hist = []

/-! Peripheral Configuration (41_config.md). -/

/-- R131: BUE, its word, its illegal words and its effect. -/
def Obligations.BueBranchesIfEnabled : Prop :=
  (∀ w : Word, w.extractLsb' 32 8 = 0x01#8 → w.extractLsb' 8 24 ≠ 0#24 → decode w = .illegalImm) ∧
  ∀ k : BitVec 8, decode (0x01#8 ++ (0#24 ++ k)) = .instr (.bue k) ∧
    ∀ s : State, ThreadReady s →
      (s.ue = true → exec (.bue k) s = .next { s with pc := s.pc + 1 + k.toNat }) ∧
      (s.ue = false → exec (.bue k) s = .next { s with pc := s.pc + 1 })

/-- R132, R135: CLKEN and IRQEN. -/
def Obligations.ClkenAndIrqenSetEnables : Prop :=
  decode 0x0200000000 = .instr .clken ∧ decode 0x0500000000 = .instr .irqen ∧
  ∀ s : State, ThreadReady s →
    exec .clken s = .next { s with clkOn := true, pc := s.pc + 1 } ∧
    exec .irqen s = .next
      { s with irqPrio := some Config.irqPrio, irqEn := true, pc := s.pc + 1 }

/-- R133: PINCFG. -/
def Obligations.PincfgProgramsBothLines : Prop :=
  decode 0x0300000000 = .instr .pincfg ∧
  ∀ s : State,
    (ThreadReady s → s.clkOn = false → faultsWith .unclocked s (exec .pincfg s)) ∧
    (GatedReady s → s.idle = false → faultsWith .busy s (exec .pincfg s)) ∧
    (GatedReady s → s.idle = true → exec .pincfg s = .next
      { s with pinTxl := .afOdNoPull, pinRxl := .afOdNoPull, pc := s.pc + 1 })

/-- R134: DMAWIRE loads the static fields of both descriptors. -/
def Obligations.DmawireLoadsStaticFields : Prop :=
  decode 0x0400000000 = .instr .dmawire ∧
  ∀ s : State,
    (ThreadReady s → s.clkOn = false → faultsWith .unclocked s (exec .dmawire s)) ∧
    (GatedReady s → s.idle = false → faultsWith .busy s (exec .dmawire s)) ∧
    (GatedReady s → s.idle = true → exec .dmawire s = .next
      { s with
        tx := { s.tx with
          paddr := some Config.drAddr, dir := some true, minc := some true, pinc := some false }
        rx := { s.rx with
          paddr := some Config.drAddr, dir := some false, minc := some true, pinc := some false }
        wired := true
        pc := s.pc + 1 })

/-- R136, R241: UEDIS; `baud_tick` is 0 while `UE = 0` (that UEDIS is the step that clears it is log
entry 16). -/
def Obligations.UedisDisablesIdleEngine : Prop :=
  decode 0x0600000000 = .instr .uedis ∧
  ∀ s : State,
    (ThreadReady s → s.clkOn = false → faultsWith .unclocked s (exec .uedis s)) ∧
    (GatedReady s → s.idle = false → faultsWith .busy s (exec .uedis s)) ∧
    (GatedReady s → s.idle = true → exec .uedis s = .next
      { s with ue := false, baudTick := false, pc := s.pc + 1 })

/-- R137: CLKRD takes an answer of the clock query, 1 to 2^32 - 1 hertz: the run's next one if it has
one. The model's own draw fields advance (log entry 6). -/
def Obligations.ClkrdSamplesClock : Prop :=
  decode 0x0700000000 = .instr .clkrd ∧
  ∀ s : State, ThreadReady s →
    ∃ f : Freq, f ≠ 0 ∧
      (∀ c cs, s.inputs.clocks = c :: cs → f.toNat = c.val + 1) ∧
      exec .clkrd s = .next
        { s with
          clkF := some f
          hist := s.hist ++ [.clkRead f]
          inputs := { s.inputs with
            clocks := s.inputs.clocks.tail, draws := s.inputs.draws + 1 }
          pc := s.pc + 1 }

/-- R138: BRGLD, every check in order. The divisor is the formula of R140 over the naturals, which the
spec marks as its own general knowledge (log entry 25). -/
def Obligations.BrgldLoadsRoundedDivisor : Prop :=
  ∀ rate : Rate, decode (0x08#8 ++ rate) = .instr (.brgld rate) ∧
    ∀ s : State,
      (ThreadReady s → s.clkOn = false → faultsWith .unclocked s (exec (.brgld rate) s)) ∧
      (GatedReady s → s.ue = true → faultsWith .torn s (exec (.brgld rate) s)) ∧
      (GatedReady s → s.ue = false → s.clkF = none →
        faultsWith .uninit s (exec (.brgld rate) s)) ∧
      (GatedReady s → s.ue = false → ∀ f, s.clkF = some f → rate = 0 →
        faultsWith .divRange s (exec (.brgld rate) s)) ∧
      (GatedReady s → s.ue = false → ∀ f d, s.clkF = some f → rate ≠ 0 →
        d = (f.toNat + rate.toNat / 2) / rate.toNat →
        (d = 0 ∨ 65535 < d → faultsWith .divRange s (exec (.brgld rate) s)) ∧
        (1 ≤ d ∧ d ≤ 65535 → exec (.brgld rate) s = .next
          { s with
            brgDiv := some (BitVec.ofNat 16 d)
            brgRate := some rate
            hist := s.hist ++ [.divLoad rate f (BitVec.ofNat 16 d)]
            pc := s.pc + 1 }))

/-- R139: UEEN. -/
def Obligations.UeenEnablesEngine : Prop :=
  decode 0x0900000000 = .instr .ueen ∧
  ∀ s : State,
    (ThreadReady s → s.clkOn = false → faultsWith .unclocked s (exec .ueen s)) ∧
    (GatedReady s → s.brgDiv = none → faultsWith .uninit s (exec .ueen s)) ∧
    (GatedReady s → ∀ d, s.brgDiv = some d →
      (s.ue = false → exec .ueen s = .next
        { s with ue := true, brgCnt := some d, pc := s.pc + 1 }) ∧
      (s.ue = true → exec .ueen s = .next { s with pc := s.pc + 1 }))

/-- R140, R141 (the formula is the spec's general knowledge, log entry 25): the divisor is the nearest
integer to clock over rate, and is 0 exactly when the rate is more than twice the clock. -/
def Obligations.DivisorIsNearest : Prop :=
  ∀ f rate : Nat, 0 < rate →
    2 * (brgDivisor f rate * rate) ≤ 2 * f + rate ∧
    2 * f ≤ 2 * (brgDivisor f rate * rate) + rate ∧
    (2 ∣ rate → 2 * f < 2 * (brgDivisor f rate * rate) + rate) ∧
    (brgDivisor f rate = 0 ↔ 2 * f < rate)

/-! DMA Transceiver Path (42_dma_xfer.md). -/

/-- R161: FCLR, its words, its illegal words and its effect in both contexts. -/
def Obligations.FclrClearsSelectedFlags : Prop :=
  (∀ w : Word, w.extractLsb' 32 8 = 0x10#8 → w.extractLsb' 0 2 = 0#2 ∨ w.extractLsb' 2 30 ≠ 0#30 →
    decode w = .illegalImm) ∧
  ∀ m : BitVec 2, m ≠ 0 → decode (0x10#8 ++ (0#30 ++ m)) = .instr (.fclr m) ∧
    ∀ s : State, s.fault = none →
      (s.clkOn = false → faultsWith .unclocked s (exec (.fclr m) s)) ∧
      (s.clkOn = true → s.irqActive = true → m ≠ 0b10 →
        faultsWith .context s (exec (.fclr m) s)) ∧
      (s.clkOn = true → s.irqActive = true → m = 0b10 → exec (.fclr m) s = .next
        { s with rx := { s.rx with tc := false }, hpc := s.hpc + 1 }) ∧
      (s.clkOn = true → s.irqActive = false → exec (.fclr m) s = .next
        { s with
          tx := { s.tx with tc := if m.getLsbD 0 then false else s.tx.tc }
          rx := { s.rx with tc := if m.getLsbD 1 then false else s.rx.tc }
          pc := s.pc + 1 })

/-- R162, R163: LENLD.TX and MALD.TX, their words, their illegal words and their effects. -/
def Obligations.LoadTxDescriptor : Prop :=
  (∀ w : Word, w.extractLsb' 32 8 = 0x11#8 → w.extractLsb' 16 16 ≠ 0#16 → decode w = .illegalImm) ∧
  ∀ (len : Len) (addr : Addr),
    decode (0x11#8 ++ (0#16 ++ len)) = .instr (.lenldTx len) ∧
    decode (0x12#8 ++ addr) = .instr (.maldTx addr) ∧
    ∀ s : State,
      (ThreadReady s → s.clkOn = false → faultsWith .unclocked s (exec (.lenldTx len) s) ∧
        faultsWith .unclocked s (exec (.maldTx addr) s)) ∧
      (GatedReady s → s.tx.en = true → faultsWith .busy s (exec (.lenldTx len) s) ∧
        faultsWith .busy s (exec (.maldTx addr) s)) ∧
      (GatedReady s → s.tx.en = false →
        exec (.lenldTx len) s = .next
          { s with tx := { s.tx with cnt := some len }, pc := s.pc + 1 } ∧
        exec (.maldTx addr) s = .next
          { s with tx := { s.tx with maddr := some addr }, pc := s.pc + 1 })

/-- R164, R165: LENLD.RX and MALD.RX, their words, their illegal words and their effects. -/
def Obligations.LoadRxDescriptor : Prop :=
  (∀ w : Word, w.extractLsb' 32 8 = 0x13#8 → w.extractLsb' 16 16 ≠ 0#16 → decode w = .illegalImm) ∧
  ∀ (len : Len) (addr : Addr),
    decode (0x13#8 ++ (0#16 ++ len)) = .instr (.lenldRx len) ∧
    decode (0x14#8 ++ addr) = .instr (.maldRx addr) ∧
    ∀ s : State,
      (ThreadReady s → s.clkOn = false → faultsWith .unclocked s (exec (.lenldRx len) s) ∧
        faultsWith .unclocked s (exec (.maldRx addr) s)) ∧
      (GatedReady s → s.rx.en = true → faultsWith .busy s (exec (.lenldRx len) s) ∧
        faultsWith .busy s (exec (.maldRx addr) s)) ∧
      (GatedReady s → s.rx.en = false →
        exec (.lenldRx len) s = .next
          { s with rx := { s.rx with cnt := some len }, pc := s.pc + 1 } ∧
        exec (.maldRx addr) s = .next
          { s with rx := { s.rx with maddr := some addr }, pc := s.pc + 1 })

/-- R166: DONECLR. -/
def Obligations.DoneclrResetsFlagBeforeArming : Prop :=
  decode 0x1500000000 = .instr .doneclr ∧
  ∀ s : State,
    (s.fault = none → s.irqActive = true → faultsWith .context s (exec .doneclr s)) ∧
    (ThreadReady s → s.tx.en = true ∨ s.rx.en = true → faultsWith .busy s (exec .doneclr s)) ∧
    (ThreadReady s → s.tx.en = false → s.rx.en = false → exec .doneclr s = .next
      { s with done := false, hist := s.hist ++ [.doneClr], pc := s.pc + 1 })

/-- R167, R168, R173: DRQEN, TCIEN, DRQDIS. -/
def Obligations.RequestLinesAndSourceEnable : Prop :=
  decode 0x1600000000 = .instr .drqen ∧ decode 0x1700000000 = .instr .tcien ∧
  decode 0x1B00000000 = .instr .drqdis ∧
  ∀ s : State,
    (ThreadReady s → s.clkOn = false → faultsWith .unclocked s (exec .drqen s) ∧
      faultsWith .unclocked s (exec .tcien s) ∧ faultsWith .unclocked s (exec .drqdis s)) ∧
    (GatedReady s →
      (s.ue = false → faultsWith .notConfigured s (exec .drqen s)) ∧
      (s.ue = true → exec .drqen s = .next
        { s with dmat := true, dmar := true, pc := s.pc + 1 }) ∧
      exec .tcien s = .next { s with rxTcie := true, pc := s.pc + 1 } ∧
      exec .drqdis s = .next { s with dmat := false, dmar := false, pc := s.pc + 1 })

/-- R170: CHEN.RX, every check in order. -/
def Obligations.ChenRxStartsReceiver : Prop :=
  decode 0x1800000000 = .instr .chenRx ∧
  ∀ s : State,
    (ThreadReady s → s.clkOn = false → faultsWith .unclocked s (exec .chenRx s)) ∧
    (GatedReady s → s.wired = false → faultsWith .notConfigured s (exec .chenRx s)) ∧
    (GatedReady s → s.wired = true → s.rx.maddr = none ∨ s.rx.cnt = none →
      faultsWith .uninit s (exec .chenRx s)) ∧
    (GatedReady s → s.wired = true → ∀ a n, s.rx.maddr = some a → s.rx.cnt = some n →
      (s.rx.en = true → faultsWith .busy s (exec .chenRx s)) ∧
      (s.rx.en = false → 2 ^ 32 < a.toNat + n.toNat → faultsWith .mem s (exec .chenRx s)) ∧
      (s.rx.en = false → a.toNat + n.toNat ≤ 2 ^ 32 → exec .chenRx s = .next
        { s with rx := { s.rx with en := true }, pc := s.pc + 1 }))

/-- R171: CHEN.TX, every check in order. -/
def Obligations.ChenTxStartsTransmitter : Prop :=
  decode 0x1900000000 = .instr .chenTx ∧
  ∀ s : State,
    (ThreadReady s → s.clkOn = false → faultsWith .unclocked s (exec .chenTx s)) ∧
    (GatedReady s → s.wired = false → faultsWith .notConfigured s (exec .chenTx s)) ∧
    (GatedReady s → s.wired = true →
      s.tx.maddr = none ∨ s.tx.cnt = none ∨ s.rx.maddr = none ∨ s.rx.cnt = none →
      faultsWith .uninit s (exec .chenTx s)) ∧
    (GatedReady s → s.wired = true → ∀ ta tn ra rn, s.tx.maddr = some ta → s.tx.cnt = some tn →
      s.rx.maddr = some ra → s.rx.cnt = some rn →
      (s.tx.en = true → faultsWith .busy s (exec .chenTx s)) ∧
      (s.tx.en = false → tn ≠ rn → faultsWith .lenMismatch s (exec .chenTx s)) ∧
      (s.tx.en = false → tn = rn → 2 ^ 32 < ta.toNat + tn.toNat →
        faultsWith .mem s (exec .chenTx s)) ∧
      (s.tx.en = false → tn = rn → ta.toNat + tn.toNat ≤ 2 ^ 32 →
        (0 < tn.toNat ∧ ta.toNat < ra.toNat + rn.toNat ∧ ra.toNat < ta.toNat + tn.toNat →
          faultsWith .overlap s (exec .chenTx s)) ∧
        (tn.toNat = 0 ∨ ra.toNat + rn.toNat ≤ ta.toNat ∨ ta.toNat + tn.toNat ≤ ra.toNat →
          exec .chenTx s = .next { s with tx := { s.tx with en := true }, pc := s.pc + 1 })))

/-- R172: WDONE passes on done and holds on pending; the hint changes nothing. -/
def Obligations.WdoneWaitsForFlag : Prop :=
  (∀ w : Word, w.extractLsb' 32 8 = 0x1A#8 → w.extractLsb' 1 31 ≠ 0#31 → decode w = .illegalImm) ∧
  ∀ h : Bool, decode (0x1A#8 ++ (0#31 ++ BitVec.ofBool h)) = .instr (.wdone h) ∧
    ∀ s : State,
      (s.fault = none → s.irqActive = true → faultsWith .context s (exec (.wdone h) s)) ∧
      (ThreadReady s → s.done = true → exec (.wdone h) s = .next { s with pc := s.pc + 1 }) ∧
      (ThreadReady s → s.done = false → exec (.wdone h) s = .next s)

/-! Completion Synchronization (43_completion.md). -/

/-- R201, R202: DONESET and IRET, in HANDLER only; IRET leaves HPC and PC as they are. -/
def Obligations.DonesetAndIretInHandler : Prop :=
  decode 0x2000000000 = .instr .doneset ∧ decode 0x2100000000 = .instr .iret ∧
  ∀ s : State,
    (ThreadReady s → faultsWith .context s (exec .doneset s) ∧
      faultsWith .context s (exec .iret s)) ∧
    (HandlerReady s →
      exec .doneset s = .next
        { s with done := true, hist := s.hist ++ [.doneSet], hpc := s.hpc + 1 } ∧
      exec .iret s = .next { s with irqActive := false, hist := s.hist ++ [.irqReturn] })

/-! Polling Transceiver Path (44_polling.md). -/

/-- R221: PUT, every check in order. -/
def Obligations.PutWritesTransmitRegister : Prop :=
  ∀ addr : Addr, decode (0x30#8 ++ addr) = .instr (.put addr) ∧
    ∀ s : State,
      (ThreadReady s → s.clkOn = false → faultsWith .unclocked s (exec (.put addr) s)) ∧
      (GatedReady s → s.ue = false → faultsWith .notConfigured s (exec (.put addr) s)) ∧
      (GatedReady s → s.ue = true → s.txe = false →
        faultsWith .tdrOverwrite s (exec (.put addr) s)) ∧
      (GatedReady s → s.ue = true → s.txe = true → s.mayRead addr = false →
        faultsWith .mem s (exec (.put addr) s)) ∧
      (GatedReady s → s.ue = true → s.txe = true → s.mayRead addr = true →
        exec (.put addr) s = .next
          { s with
            tdr := some (s.byteAt addr)
            txe := false
            hist := s.hist ++ [.memR .host addr (s.byteAt addr)]
            pc := s.pc + 1 })

/-- R222, R223: WTXE and WRXNE pass or hold. -/
def Obligations.PollingWaits : Prop :=
  decode 0x3100000000 = .instr .wtxe ∧ decode 0x3200000000 = .instr .wrxne ∧
  ∀ s : State,
    (ThreadReady s → s.clkOn = false →
      faultsWith .unclocked s (exec .wtxe s) ∧ faultsWith .unclocked s (exec .wrxne s)) ∧
    (GatedReady s →
      (s.txe = true → exec .wtxe s = .next { s with pc := s.pc + 1 }) ∧
      (s.txe = false → exec .wtxe s = .next s) ∧
      (s.rxne = true → exec .wrxne s = .next { s with pc := s.pc + 1 }) ∧
      (s.rxne = false → exec .wrxne s = .next s))

/-- R224: GET, every check in order; the byte lands at its address and nowhere else. -/
def Obligations.GetStoresReceivedByte : Prop :=
  ∀ addr : Addr, decode (0x33#8 ++ addr) = .instr (.get addr) ∧
    ∀ s : State,
      (ThreadReady s → s.clkOn = false → faultsWith .unclocked s (exec (.get addr) s)) ∧
      (GatedReady s → s.rxne = false → faultsWith .rdrEmpty s (exec (.get addr) s)) ∧
      (GatedReady s → s.rxne = true → s.mayWrite addr = false →
        faultsWith .mem s (exec (.get addr) s)) ∧
      (GatedReady s → s.rxne = true → s.mayWrite addr = true → ∀ b, s.rdr = some b →
        ∃ t, exec (.get addr) s = .next t ∧
          t = { s with
            rxne := false
            mem := t.mem
            hist := s.hist ++ [.memW .host addr b]
            pc := s.pc + 1 } ∧
          t.byteAt addr = b ∧ ∀ a, a ≠ addr → t.byteAt a = s.byteAt a)

/-! Frames of the instructions (R66, column "written by"). -/

/-- BUE, CLKEN, PINCFG, DMAWIRE, IRQEN, UEDIS, CLKRD, BRGLD, UEEN: nothing but what R66 says the
instruction writes, its counter and FAULT; no byte of MEM, no handler counter. -/
def Obligations.ConfigurationFrame : Prop :=
  ∀ (i : Instr) (s t : State), instrFamily i = .configuration → exec i s = .next t →
    (∀ e : Element, e ∉ instrWrites i → e.same s t) ∧
    (∀ a, t.byteAt a = s.byteAt a) ∧ t.launch = s.launch ∧ (i ≠ .clkrd → t.inputs = s.inputs)

/-- FCLR, LENLD.c, MALD.c, DONECLR, DRQEN, TCIEN, CHEN.c, WDONE, DRQDIS: as R66 says; no byte of MEM; a
flag FCLR does not select, and the counter of the other context, stay. -/
def Obligations.DmaPathFrame : Prop :=
  ∀ (i : Instr) (s t : State), instrFamily i = .dma → exec i s = .next t →
    (∀ e : Element, e ∉ instrWrites i → e.same s t) ∧
    (∀ a, t.byteAt a = s.byteAt a) ∧ t.launch = s.launch ∧ t.inputs = s.inputs ∧
    (∀ m, i = .fclr m → m.getLsbD 0 = false → t.tx.tc = s.tx.tc) ∧
    (∀ m, i = .fclr m → m.getLsbD 1 = false → t.rx.tc = s.rx.tc) ∧
    (s.irqActive = true → t.pc = s.pc) ∧ (s.irqActive = false → t.hpc = s.hpc)

/-- DONESET, IRET, PUT, WTXE, WRXNE, GET: as R66 says; only GET stores, at its address. -/
def Obligations.CompletionAndPollingFrame : Prop :=
  ∀ (i : Instr) (s t : State), instrFamily i = .completion ∨ instrFamily i = .polling →
    exec i s = .next t →
    (∀ e : Element, e ∉ instrWrites i → e.same s t) ∧
    (∀ a, (∀ addr, i = .get addr → a ≠ addr) → t.byteAt a = s.byteAt a) ∧
    t.launch = s.launch ∧ t.inputs = s.inputs

/-- R66: from a coherent state an agent's step writes only what the table gives the agent; only the
DMA.RX beat stores, at `RX.MADDR`. -/
def Obligations.AgentFrame : Prop :=
  ∀ s t : State, Coherent s → s.turn ≠ .host → step s = .next t →
    (∀ e : Element, e ∉ agentWrites s.turn → e.same s t) ∧
    (∀ a, (s.turn = .dmaRx → s.rx.maddr ≠ some a) → t.byteAt a = s.byteAt a) ∧
    t.launch = s.launch ∧ t.inputs = (useChoice s).inputs

/-! The agents' steps (45_engines.md, 60_exceptions.md). An agent without a step leaves the block as it
is (R12; that it uses up its turn is log entry 4). -/

/-- R244: SHIFT.start. -/
def Obligations.ShiftStartBeginsFrame : Prop :=
  ∀ s : State, s.fault = none → s.turn = .shiftStart →
    (∀ b d, s.ue = true → s.txe = false → s.busy = false → s.tdr = some b → s.brgDiv = some d →
      step s = .next { useChoice s with
        tsr := some b, txe := true, busy := true, fdiv := some d }) ∧
    (s.ue = false ∨ s.txe = true ∨ s.busy = true → step s = .next (useChoice s))

/-- R246, R255: SHIFT.complete. That it waits while RX requests is the spec's scheduling assumption D18
(log entry 21, unsafe). -/
def Obligations.ShiftCompleteEndsFrame : Prop :=
  ∀ s : State, s.fault = none → s.turn = .shiftComplete →
    (∀ b d, s.tsr = some b → s.fdiv = some d →
      (∀ r, s.busy = true → s.pinTxl = .afOdNoPull → s.pinRxl = .afOdNoPull →
        busAnswer s.launch.bus s.frames b d = some r → s.reqRx = false →
        (s.rxne = true → faultsWith .overrun (useChoice s) (step s)) ∧
        (s.rxne = false → step s = .next { useChoice s with
          rdr := some r
          rxne := true
          busy := false
          hist := s.hist ++ [.frame s.frames b r d]
          frames := s.frames + 1 })) ∧
      (busAnswer s.launch.bus s.frames b d = none → step s = .next (useChoice s))) ∧
    (s.busy = false ∨ s.pinTxl = .reset ∨ s.pinRxl = .reset ∨ s.reqRx = true →
      step s = .next (useChoice s))

/-- R249, R250: the DMA.TX beat. That the channel stops itself at 0 is decision D15 (log entry 25). -/
def Obligations.DmaTxBeatMovesByte : Prop :=
  ∀ s : State, s.fault = none → s.turn = .dmaTx →
    (∀ a n, s.dmat = true → s.txe = true → s.tx.en = true → s.tx.cnt = some n → n ≠ 0 →
      s.tx.maddr = some a → s.tx.isWired true → ¬ (s.launch.arb = .rxFirst ∧ s.reqRx = true) →
      (s.mayRead a = false → faultsWith .mem (useChoice s) (step s)) ∧
      (s.mayRead a = true → step s = .next { useChoice s with
        tdr := some (s.byteAt a)
        txe := false
        hist := s.hist ++ [.memR .dmaTx a (s.byteAt a)]
        tx := { s.tx with
          maddr := some (a + 1)
          cnt := some (n - 1)
          tc := if n = 1 then true else s.tx.tc
          en := if n = 1 then false else true } })) ∧
    (s.dmat = false ∨ s.txe = false ∨ s.tx.en = false ∨ s.tx.cnt = some 0 →
      step s = .next (useChoice s))

/-- R251, R252: the DMA.RX beat. That the channel stops itself at 0 is decision D15 (log entry 25). -/
def Obligations.DmaRxBeatLandsByte : Prop :=
  ∀ s : State, s.fault = none → s.turn = .dmaRx →
    (∀ a n b, s.dmar = true → s.rxne = true → s.rx.en = true → s.rx.cnt = some n → n ≠ 0 →
      s.rx.maddr = some a → s.rx.isWired false → s.rdr = some b →
      ¬ (s.launch.arb = .txFirst ∧ s.reqTx = true) →
      (s.mayWrite a = false → faultsWith .mem (useChoice s) (step s)) ∧
      (s.mayWrite a = true → ∃ t, step s = .next t ∧
        t = { useChoice s with
          rxne := false
          mem := t.mem
          hist := s.hist ++ [.memW .dmaRx a b]
          rx := { s.rx with
            maddr := some (a + 1)
            cnt := some (n - 1)
            tc := if n = 1 then true else s.rx.tc
            en := if n = 1 then false else true } } ∧
        t.byteAt a = b ∧ ∀ x, x ≠ a → t.byteAt x = s.byteAt x)) ∧
    (s.dmar = false ∨ s.rxne = false ∨ s.rx.en = false ∨ s.rx.cnt = some 0 →
      step s = .next (useChoice s))

/-- R254: the arbiter, when both channels request: a fixed policy grants its channel and not the
other; under `any` either may be granted. -/
def Obligations.ArbiterGrantsOne : Prop :=
  ∀ s : State, s.fault = none → s.reqTx = true → s.reqRx = true →
    (s.launch.arb = .rxFirst → s.turn = .dmaTx → step s = .next (useChoice s)) ∧
    (s.launch.arb = .txFirst → s.turn = .dmaRx → step s = .next (useChoice s)) ∧
    (s.launch.arb ≠ .rxFirst → s.turn = .dmaTx → step s = dmaTxBeat (useChoice s)) ∧
    (s.launch.arb ≠ .txFirst → s.turn = .dmaRx → step s = dmaRxBeat (useChoice s))

/-- R290, R292: IRQ.entry, only on its level request and its two enables. -/
def Obligations.IrqEntrySwitchesContext : Prop :=
  ∀ s : State, s.fault = none → s.turn = .irqEntry →
    (s.rx.tc = true → s.rxTcie = true → s.irqEn = true → s.irqActive = false → s.irqOk = true →
      step s = .next { useChoice s with
        irqActive := true, hpc := 0, hist := s.hist ++ [.irqEntry] }) ∧
    (s.rx.tc = false ∨ s.rxTcie = false ∨ s.irqEn = false ∨ s.irqActive = true ∨ s.irqOk = false →
      step s = .next (useChoice s))

/-- R241: after UEEN the tick is high in the `d`-th cycle and in no earlier one, and the counter is
reloaded there; while `UE = 0` the counter does not run. -/
def Obligations.BaudTickPeriod : Prop :=
  (∀ (s : State) (d : Divisor), s.fault = none → s.ue = true → s.brgDiv = some d → d ≠ 0 →
    s.brgCnt = some d →
    (∀ k, 1 ≤ k → k < d.toNat → brgTicks k s = .next
      { s with brgCnt := some (d - BitVec.ofNat 16 k), baudTick := false }) ∧
    brgTicks d.toNat s = .next { s with brgCnt := some d, baudTick := true }) ∧
  (∀ s : State, s.fault = none → s.turn = .brgTick → s.ue = false → step s = .next (useChoice s))

/-! Rules of the whole machine. -/

/-- R10, R33, R281, R282: a step that records a fault changes nothing else, and after it no agent has
a step. -/
def Obligations.FaultRecordsAndStops : Prop :=
  (∀ (s t : State) (f : Fault), step s = .next t → t.fault = some f →
    s.fault = none ∧ t = { useChoice s with fault := some f }) ∧
  (∀ (s : State) (f : Fault), s.fault = some f → step s = .fault f)

/-- R322: no step clears CLK_ON, WIRED, IRQ.EN or RX.TCIE or restores a pin. -/
def Obligations.SetupNeverUndone : Prop :=
  ∀ s t : State, step s = .next t →
    (s.clkOn = true → t.clkOn = true) ∧ (s.wired = true → t.wired = true) ∧
    (s.irqEn = true → t.irqEn = true) ∧ (s.rxTcie = true → t.rxTcie = true) ∧
    (s.pinTxl = .afOdNoPull → t.pinTxl = .afOdNoPull) ∧
    (s.pinRxl = .afOdNoPull → t.pinRxl = .afOdNoPull)

/-- R67: the divisor and the rate change only by a BRGLD, while the engine is disabled. -/
def Obligations.DivisorChangesOnlyWhenDisabled : Prop :=
  ∀ s t : State, step s = .next t → t.brgDiv ≠ s.brgDiv ∨ t.brgRate ≠ s.brgRate →
    s.ue = false ∧ s.turn = .host ∧ s.irqActive = false ∧
      ∃ rate, fetch s = .instr (.brgld rate) ∧ t.brgRate = some rate

/-- R32, R68: the sole writers of the Completion Flag. -/
def Obligations.CompletionFlagSoleWriters : Prop :=
  ∀ s t : State, step s = .next t →
    (s.done = false → t.done = true →
      s.turn = .host ∧ s.irqActive = true ∧ fetch s = .instr .doneset) ∧
    (s.done = true → t.done = false →
      s.turn = .host ∧ s.irqActive = false ∧ fetch s = .instr .doneclr ∧
        s.tx.en = false ∧ s.rx.en = false)

/-- R31, R83 (b), R252: RX.TC is set only by the beat that takes RX.CNT to 0, which stops the channel
(decision D15, log entry 25) and lands its byte in the same step. -/
def Obligations.CompletionOnlyAfterLanding : Prop :=
  ∀ s t : State, step s = .next t → s.rx.tc = false → t.rx.tc = true →
    s.turn = .dmaRx ∧ s.rx.cnt = some 1 ∧ t.rx.cnt = some 0 ∧ t.rx.en = false ∧
      ∃ a b, s.rx.maddr = some a ∧ s.rdr = some b ∧ s.mayWrite a = true ∧ t.byteAt a = b

/-- R27, R205, R292, R294: the context changes only by IRQ.entry and IRET, both keep the thread's PC,
and no step changes PC while the handler runs. -/
def Obligations.ContextSwitches : Prop :=
  ∀ s t : State, step s = .next t →
    (s.irqActive = true → t.pc = s.pc) ∧
    (s.irqActive = false → t.irqActive = true →
      s.turn = .irqEntry ∧ s.rx.tc = true ∧ s.rxTcie = true ∧ s.irqEn = true ∧ t.hpc = 0 ∧
        t.pc = s.pc) ∧
    (s.irqActive = true → t.irqActive = false →
      s.turn = .host ∧ fetch s = .instr .iret ∧ t.hpc = s.hpc)

/-- R62, R63: the history only grows and the parameters of the run never change. -/
def Obligations.HistoryGrowsLaunchStays : Prop :=
  ∀ s t : State, step s = .next t → (∃ l, t.hist = s.hist ++ l) ∧ t.launch = s.launch

/-- R74, R71: a step changes a byte of MEM only inside WR, and reads one only inside RD, as it is. -/
def Obligations.MemoryOnlyWhereAdmitted : Prop :=
  ∀ s t : State, step s = .next t →
    (∀ a, t.byteAt a ≠ s.byteAt a → s.mayWrite a = true) ∧
    (∀ ag a v, t.hist = s.hist ++ [.memR ag a v] → s.mayRead a = true ∧ v = s.byteAt a)

/-- R74, R81: bytes outside RD cannot be learned: two states that differ only in them step alike, and
still agree on every byte inside RD. -/
def Obligations.UnreadableMemoryNotObserved : Prop :=
  ∀ (s : State) (m : List Host.Cell),
    (∀ a, s.mayRead a = true → Memory.read m a.toNat = s.byteAt a) →
    (∀ t, step s = .next t → ∃ t', step { s with mem := m } = .next t' ∧
      t' = { t with mem := t'.mem } ∧ ∀ a, t.mayRead a = true → t'.byteAt a = t.byteAt a) ∧
    (∀ f, step s = .fault f → step { s with mem := m } = .fault f) ∧
    (∀ r, step s = .refused r → step { s with mem := m } = .refused r)

/-- R258, R333, R246, R255: an overrun happens only while the receiver does not request. That is the
spec's scheduling assumption D18 on DMA latency, which errs toward proving (log entry 21, unsafe). -/
def Obligations.OverrunOnlyWhenUnarmed : Prop :=
  ∀ s t : State, step s = .next t → t.fault = some .overrun →
    s.turn = .shiftComplete ∧ s.busy = true ∧ s.rxne = true ∧
      (s.dmar = false ∨ s.rx.en = false ∨ s.rx.hasBytes = false)

/-! Invariants. -/

/-- The state after reset is coherent. -/
def Obligations.ResetIsCoherent : Prop := Coherent State.reset

/-- Every step from a coherent state leaves a coherent state. -/
def Obligations.StepKeepsCoherent : Prop :=
  ∀ s t : State, Coherent s → step s = .next t → Coherent t

/-- R25, R111: with an accepted program the counter never passes the program's end. -/
def Obligations.CounterStaysInProgram : Prop :=
  ∀ s t : State, programAccepted s.launch.prog = true → s.pc ≤ s.launch.prog.length →
    step s = .next t → t.pc ≤ t.launch.prog.length

/-- R11, R244: from a coherent state no agent but HOST is refused a step or needs a value that is NONE. -/
def Obligations.EnginesNeverNeedNone : Prop :=
  ∀ s : State, Coherent s → s.turn ≠ .host →
    (∀ r, step s ≠ .refused r) ∧ ∀ t, step s = .next t → t.fault ≠ some .uninit

/-- R204, R206, R294: from a coherent state the handler's three words set the flag, acknowledge the
request and return, with no fault. -/
def Obligations.HandlerRunsToReturn : Prop :=
  ∀ s : State, Coherent s → s.fault = none → s.irqActive = true → s.turn = .host →
    ∃ t, step s = .next t ∧ t.fault = none ∧ t.done = true ∧
      (s.hpc = 0 → t.hpc = 1 ∧ t.irqActive = true ∧ t.irqLine = true) ∧
      (s.hpc = 1 → t.hpc = 2 ∧ t.irqActive = true ∧ t.irqLine = false ∧ t.tx.tc = s.tx.tc) ∧
      (s.hpc = 2 → t.irqActive = false)

/-- R242: from a coherent state the divisor of the frame on the wire stays the one in force. -/
def Obligations.FrameKeepsItsDivisor : Prop :=
  ∀ s t : State, Coherent s → s.busy = true → step s = .next t →
    t.brgDiv = s.brgDiv ∧ (t.busy = true → t.fdiv = s.fdiv)

/-- R257, R255: the engines keep the counts of a transaction in balance, and no frame overruns. That
none does is by the spec's scheduling assumption D18, which errs toward proving (log entry 21, unsafe). -/
def Obligations.PipelineStaysBalanced : Prop :=
  ∀ s t : State, InFlight s → s.turn ≠ .host → step s = .next t →
    InFlight t ∧ t.fault ≠ some .overrun

/-- R90, R247, R257: on the loop-back bus the engines carry each byte to its place, in order; once
every byte has landed the incoming buffer equals the outgoing one. The engines' steps are those of the
spec's scheduling assumption D18 (R255), which errs toward proving (log entry 21, unsafe). -/
def Obligations.LoopbackEchoesInOrder : Prop :=
  ∀ (tx rx : Addr) (n : Nat) (img : Nat → Byte),
    (∀ s t : State, Echoing tx rx n img s → s.turn ≠ .host → step s = .next t →
      Echoing tx rx n img t) ∧
    (∀ s : State, Echoing tx rx n img s → s.rx.cnt = some 0 → ∀ i, i < n →
      s.byteAt (rx + BitVec.ofNat 32 i) = s.byteAt (tx + BitVec.ofNat 32 i))
end

