-- ==== Sys2Proof/Laws/Decode.lean ====
section
/-! SUPPORT. The fields of a word made of an opcode and an immediate, the fields of an immediate made
of zeros and an operand, and what each format's decoding answers. -/

namespace Sys2Proof

/-- The high part of two fields put together. -/
theorem append_high {n m : Nat} (x : BitVec n) (y : BitVec m) :
    (x ++ y).extractLsb' m n = x := by
  ext i h
  simp [BitVec.getLsbD_append, BitVec.getLsbD_eq_getElem h]

/-- The low part of two fields put together. -/
theorem append_low {n m : Nat} (x : BitVec n) (y : BitVec m) :
    (x ++ y).extractLsb' 0 m = y := by
  ext i h
  simp [BitVec.getLsbD_append, h]

/-- Two fields cut out of a vector and put together again. -/
theorem append_of_parts {n m : Nat} (w : BitVec (n + m)) :
    w.extractLsb' m n ++ w.extractLsb' 0 m = w := by
  simp

@[simp] theorem opField_append (op : Opcode) (imm : Imm) : opField (op ++ imm) = op :=
  append_high op imm

@[simp] theorem immField_append (op : Opcode) (imm : Imm) : immField (op ++ imm) = imm :=
  append_low op imm

/-- A word is its opcode followed by its immediate (R100). -/
theorem word_eq_append (w : Word) : opField w ++ immField w = w :=
  append_of_parts (n := 8) (m := 32) w

/-- Decoding the word of an instruction decodes its opcode and its immediate. -/
theorem decode_encode_fields (i : Instr) :
    decode (encode i) = decodeFields i.opcode i.immediate := by
  simp [decode, encode]

theorem formatN_zero (i : Instr) : formatN i 0 = .instr i := rfl

theorem formatN_eq {i j : Instr} {imm : Imm} (h : formatN i imm = .instr j) : imm = 0 ∧ j = i := by
  unfold formatN at h
  split at h <;> simp_all

/-! The operand and the must-be-zero bits of an immediate made by the encoder (R101). -/

theorem low8_append (s : BitVec 8) : (0#24 ++ s).extractLsb' 0 8 = s := append_low _ s

theorem high24_append (s : BitVec 8) : (0#24 ++ s).extractLsb' 8 24 = 0 := append_high _ s

theorem low16_append (s : BitVec 16) : (0#16 ++ s).extractLsb' 0 16 = s := append_low _ s

theorem high16_append (s : BitVec 16) : (0#16 ++ s).extractLsb' 16 16 = 0 := append_high _ s

theorem low2_append (s : BitVec 2) : (0#30 ++ s).extractLsb' 0 2 = s := append_low _ s

theorem high30_append (s : BitVec 2) : (0#30 ++ s).extractLsb' 2 30 = 0 := append_high _ s

/-- What each format decodes from the immediate the encoder makes for it. -/
theorem formatS_immediate (f : BitVec 8 → Instr) (s : BitVec 8) :
    formatS f (0#24 ++ s) = .instr (f s) :=
  (if_pos (high24_append s)).trans (congrArg (fun x => Decoded.instr (f x)) (low8_append s))

theorem formatL_immediate (f : Len → Instr) (s : BitVec 16) :
    formatL f (0#16 ++ s) = .instr (f s) :=
  (if_pos (high16_append s)).trans (congrArg (fun x => Decoded.instr (f x)) (low16_append s))

theorem formatM_immediate (f : BitVec 2 → Instr) (s : BitVec 2) (h : s ≠ 0) :
    formatM f (0#30 ++ s) = .instr (f s) :=
  (if_pos ⟨high30_append s, (low2_append s).symm ▸ h⟩).trans
    (congrArg (fun x => Decoded.instr (f x)) (low2_append s))

theorem formatH_immediate (f : Bool → Instr) (h : Bool) :
    formatH f (0#31 ++ BitVec.ofBool h) = .instr (f h) := by
  cases h <;> rfl

/-- A vector whose high part is zero is its low part under zeros. -/
theorem eq_low_of_high_zero {n m : Nat} (w : BitVec (n + m)) (h : w.extractLsb' m n = 0#n) :
    w = 0#n ++ w.extractLsb' 0 m := by
  rw [← h]
  exact (append_of_parts w).symm

/-! What a format that accepts an immediate says of it. -/

theorem formatS_eq {f : BitVec 8 → Instr} {i : Instr} {imm : Imm} (h : formatS f imm = .instr i) :
    ∃ s, i = f s ∧ imm = 0#24 ++ s := by
  unfold formatS at h
  split at h
  · next hz =>
    exact ⟨_, (Decoded.instr.inj h).symm, eq_low_of_high_zero (n := 24) (m := 8) imm hz⟩
  · cases h

theorem formatL_eq {f : Len → Instr} {i : Instr} {imm : Imm} (h : formatL f imm = .instr i) :
    ∃ s, i = f s ∧ imm = 0#16 ++ s := by
  unfold formatL at h
  split at h
  · next hz =>
    exact ⟨_, (Decoded.instr.inj h).symm, eq_low_of_high_zero (n := 16) (m := 16) imm hz⟩
  · cases h

theorem formatM_eq {f : BitVec 2 → Instr} {i : Instr} {imm : Imm} (h : formatM f imm = .instr i) :
    ∃ s, s ≠ 0 ∧ i = f s ∧ imm = 0#30 ++ s := by
  unfold formatM at h
  split at h
  · next hz =>
    exact ⟨_, hz.2, (Decoded.instr.inj h).symm, eq_low_of_high_zero (n := 30) (m := 2) imm hz.1⟩
  · cases h

theorem formatH_eq {f : Bool → Instr} {i : Instr} {imm : Imm} (h : formatH f imm = .instr i) :
    ∃ b, i = f b ∧ imm = 0#31 ++ BitVec.ofBool b := by
  unfold formatH at h
  split at h
  · next hz =>
    refine ⟨_, (Decoded.instr.inj h).symm, ?_⟩
    have h1 : BitVec.ofBool (imm.getLsbD 0) = imm.extractLsb' 0 1 := by
      ext i h
      obtain rfl : i = 0 := by omega
      simp
    rw [h1]
    exact eq_low_of_high_zero (n := 31) (m := 1) imm hz
  · cases h

theorem formatWhole_eq {f : BitVec 32 → Instr} {i : Instr} {imm : Imm}
    (h : formatWhole f imm = .instr i) : i = f imm := (Decoded.instr.inj h).symm

end Sys2Proof
end

