-- ==== Sys2Proof/Laws/Ops.lean ====
section
/-! SUPPORT. One lemma for each shared operation that says everything it can do, and the equations of
the operations on concrete cases. -/

namespace Sys2Proof.Machine

/-! Faults, checks, guards. -/

/-- Taking a fault answers one next state: the record set, all else as it was. -/
@[simp] theorem raise_eq (f : Fault) (s : State) :
    raise f s = .next { s with fault := some f } := rfl

@[simp] theorem hold_eq (s : State) : hold s = .next s := rfl

@[simp] theorem finish_eq (s : State) : finish s = .next (advance s) := rfl

@[simp] theorem require_true (f : Fault) (s : State) (r : Result) : require true f s r = r := rfl

@[simp] theorem require_false (f : Fault) (s : State) (r : Result) :
    require false f s r = raise f s := rfl

/-- A check that answers a next state passed, or took its fault. -/
theorem require_next {ok : Bool} {f : Fault} {s t : State} {r : Result}
    (h : require ok f s r = .next t) :
    (ok = true ∧ r = .next t) ∨ (ok = false ∧ t = { s with fault := some f }) := by
  cases ok
  · exact .inr ⟨rfl, (Host.Outcome.next.inj h).symm⟩
  · exact .inl ⟨rfl, h⟩

/-- A guarded step took its action with the guard true, or changed nothing. -/
theorem guarded_next {ready : Bool} {r : Result} {s t : State} (h : guarded ready r s = .next t) :
    (ready = true ∧ r = .next t) ∨ (ready = false ∧ t = s) := by
  cases ready
  · exact .inr ⟨rfl, (Host.Outcome.next.inj h).symm⟩
  · exact .inl ⟨rfl, h⟩

@[simp] theorem guarded_true (r : Result) (s : State) : guarded true r s = r := rfl

@[simp] theorem guarded_false (r : Result) (s : State) : guarded false r s = .next s := rfl

/-! The prelude (R107). -/

/-- A prelude that answers a next state found no fault, and then took FAULT_CONTEXT, or
FAULT_UNCLOCKED, or passed both checks and left the answer to the instruction's rule. -/
theorem prelude_next {thread handler gated : Bool} {s t : State} {r : Result}
    (h : prelude thread handler gated s r = .next t) :
    s.fault = none ∧
      (((if s.irqActive then handler else thread) = false ∧
          t = { s with fault := some .context }) ∨
        ((if s.irqActive then handler else thread) = true ∧ gated = true ∧ s.clkOn = false ∧
          t = { s with fault := some .unclocked }) ∨
        ((if s.irqActive then handler else thread) = true ∧ (gated = true → s.clkOn = true) ∧
          r = .next t)) := by
  unfold prelude at h
  cases hf : s.fault with
  | some f => simp [hf] at h
  | none =>
    rw [hf] at h
    refine ⟨rfl, ?_⟩
    obtain ⟨hc, h⟩ | ⟨hc, rfl⟩ := require_next h
    · obtain ⟨hg, h⟩ | ⟨hg, rfl⟩ := require_next h
      · exact .inr (.inr ⟨hc, by rintro rfl; simpa using hg, h⟩)
      · exact .inr (.inl ⟨hc, by simp_all, by simp_all, rfl⟩)
    · exact .inl ⟨hc, rfl⟩

/-- The prelude passes to the instruction's rule. -/
theorem prelude_passes {thread handler gated : Bool} {s : State} (r : Result)
    (hf : s.fault = none) (hc : (if s.irqActive then handler else thread) = true)
    (hg : gated = true → s.clkOn = true) : prelude thread handler gated s r = r := by
  unfold prelude
  rw [hf]
  cases gated <;> simp_all [require]

/-- A gated instruction of THREAD reaches its rule. -/
theorem gatedThread_passes {s : State} (r : Result) (hf : s.fault = none)
    (ha : s.irqActive = false) (hc : s.clkOn = true) : gatedThread s r = r :=
  prelude_passes r hf (by simp [ha]) fun _ => hc

/-- An ungated instruction of THREAD reaches its rule. -/
theorem freeThread_passes {s : State} (r : Result) (hf : s.fault = none)
    (ha : s.irqActive = false) : freeThread s r = r :=
  prelude_passes r hf (by simp [ha]) (by simp)

/-- An instruction of HANDLER reaches its rule. -/
theorem handlerOnly_passes {s : State} (r : Result) (hf : s.fault = none)
    (ha : s.irqActive = true) : handlerOnly s r = r :=
  prelude_passes r hf (by simp [ha]) (by simp)

/-- An instruction whose context is not allowed faults with FAULT_CONTEXT. -/
theorem prelude_context {thread handler gated : Bool} {s : State} (r : Result)
    (hf : s.fault = none) (hc : (if s.irqActive then handler else thread) = false) :
    prelude thread handler gated s r = raise .context s := by
  unfold prelude
  rw [hf, hc]
  rfl

/-- A gated instruction with the clock off faults with FAULT_UNCLOCKED. -/
theorem prelude_unclocked {thread handler : Bool} {s : State} (r : Result)
    (hf : s.fault = none) (hc : (if s.irqActive then handler else thread) = true)
    (hk : s.clkOn = false) : prelude thread handler true s r = raise .unclocked s := by
  unfold prelude
  rw [hf, hc, hk]
  rfl

/-- With a fault recorded no instruction runs. -/
theorem prelude_faulted {thread handler gated : Bool} {s : State} {f : Fault} (r : Result)
    (hf : s.fault = some f) : prelude thread handler gated s r = .fault f := by
  unfold prelude
  rw [hf]

/-! Counters. -/

theorem advance_thread {s : State} (h : s.irqActive = false) :
    advance s = { s with pc := s.pc + 1 } := by simp [advance, h]

theorem advance_handler {s : State} (h : s.irqActive = true) :
    advance s = { s with hpc := s.hpc + 1 } := by simp [advance, h]

/-! Inputs. -/

/-- The clock query never answers 0 (R7, R137). -/
theorem frequencyOf_toNat (c : ClockAnswer) : (frequencyOf c).toNat = c.val + 1 := by
  have := c.isLt
  simp only [frequencyOf, BitVec.toNat_ofNat]
  omega

theorem frequencyOf_ne_zero (c : ClockAnswer) : frequencyOf c ≠ 0 := by
  intro h
  have := congrArg BitVec.toNat h
  rw [frequencyOf_toNat] at this
  simp at this

@[simp] theorem busAnswer_loopback (k : Nat) (b : Byte) (d : Divisor) :
    busAnswer .loopback k b d = some b := rfl

@[simp] theorem busAnswer_stalled (k : Nat) (b : Byte) (d : Divisor) :
    busAnswer .stalled k b d = none := rfl

/-! Channels. -/

/-- A channel is loaded with a descriptor exactly when its six fields hold it. -/
theorem Channel.loaded_eq_some {c : Channel} {d : Descriptor} :
    c.loaded = some d ↔ c.paddr = some d.paddr ∧ c.maddr = some d.maddr ∧ c.cnt = some d.cnt ∧
      c.dir = some d.dir ∧ c.minc = some d.minc ∧ c.pinc = some d.pinc := by
  obtain ⟨p, a, n, di, mi, pi, en, tc⟩ := c
  obtain ⟨dp, da, dn, dd, dm, dpi⟩ := d
  cases p <;> cases a <;> cases n <;> cases di <;> cases mi <;> cases pi <;> simp [Channel.loaded]

/-- A channel has bytes left exactly when its count is loaded and not 0. -/
theorem Channel.hasBytes_iff {c : Channel} :
    c.hasBytes = true ↔ ∃ n, c.cnt = some n ∧ n ≠ 0 := by
  unfold Channel.hasBytes
  cases c.cnt <;> simp

/-- What `REQ.TX` says (R249). -/
theorem reqTx_iff {s : State} : s.reqTx = true ↔
    s.dmat = true ∧ s.txe = true ∧ s.tx.en = true ∧ ∃ n, s.tx.cnt = some n ∧ n ≠ 0 := by
  simp [State.reqTx, Channel.hasBytes_iff, and_assoc]

/-- What `REQ.RX` says (R251). -/
theorem reqRx_iff {s : State} : s.reqRx = true ↔
    s.dmar = true ∧ s.rxne = true ∧ s.rx.en = true ∧ ∃ n, s.rx.cnt = some n ∧ n ≠ 0 := by
  simp [State.reqRx, Channel.hasBytes_iff, and_assoc]

/-- What `IDLE` says (R65). -/
theorem idle_iff {s : State} : s.idle = true ↔
    s.busy = false ∧ s.txe = true ∧ s.rxne = false ∧ s.dmat = false ∧ s.dmar = false ∧
      s.tx.en = false ∧ s.rx.en = false := by
  simp [State.idle, and_assoc]

end Sys2Proof.Machine
end

