-- ==== Sys2Proof/Laws/Step.lean ====
section
/-! SUPPORT. What a step of the machine can do: it is stopped by a recorded fault, or it is the step of
the agent whose turn it is; the cases of each agent's step; and what an execution is of. -/

namespace Sys2Proof.Machine

/-! Faults. -/

@[simp] theorem faultsWith_raise (f : Fault) (s : State) : faultsWith f s (raise f s) := rfl

/-- A gated instruction of THREAD with the clock off. -/
theorem gatedThread_unclocked {s : State} (h : ThreadReady s) (hk : s.clkOn = false) (r : Result) :
    faultsWith .unclocked s (gatedThread s r) :=
  prelude_unclocked r h.1 (by simp [h.2]) hk

/-- An ungated instruction of THREAD while the handler runs. -/
theorem freeThread_context {s : State} (hf : s.fault = none) (ha : s.irqActive = true) (r : Result) :
    faultsWith .context s (freeThread s r) :=
  prelude_context r hf (by simp [ha])

/-- A gated instruction of THREAD while the handler runs. -/
theorem gatedThread_context {s : State} (hf : s.fault = none) (ha : s.irqActive = true) (r : Result) :
    faultsWith .context s (gatedThread s r) :=
  prelude_context r hf (by simp [ha])

/-- An instruction of HANDLER while the thread runs. -/
theorem handlerOnly_context {s : State} (h : ThreadReady s) (r : Result) :
    faultsWith .context s (handlerOnly s r) :=
  prelude_context r h.1 (by simp [h.2])

theorem GatedReady.passes {s : State} (h : GatedReady s) (r : Result) : gatedThread s r = r :=
  gatedThread_passes r h.1 h.2.1 h.2.2

theorem ThreadReady.passes {s : State} (h : ThreadReady s) (r : Result) : freeThread s r = r :=
  freeThread_passes r h.1 h.2

theorem HandlerReady.passes {s : State} (h : HandlerReady s) (r : Result) : handlerOnly s r = r :=
  handlerOnly_passes r h.1 h.2

/-! What using up a choice leaves alone. -/

@[simp] theorem useChoice_byteAt (s : State) (a : Addr) :
    (useChoice s).byteAt a = s.byteAt a := rfl

@[simp] theorem useChoice_mayRead (s : State) (a : Addr) :
    (useChoice s).mayRead a = s.mayRead a := rfl

@[simp] theorem useChoice_mayWrite (s : State) (a : Addr) :
    (useChoice s).mayWrite a = s.mayWrite a := rfl

@[simp] theorem useChoice_reqTx (s : State) : (useChoice s).reqTx = s.reqTx := rfl

@[simp] theorem useChoice_reqRx (s : State) : (useChoice s).reqRx = s.reqRx := rfl

@[simp] theorem useChoice_irqOk (s : State) : (useChoice s).irqOk = s.irqOk := rfl

@[simp] theorem useChoice_frameAnswer (s : State) (b : Byte) (d : Divisor) :
    frameAnswer (useChoice s) b d = frameAnswer s b d := rfl

/-! Steps. -/

/-- A state with a fault recorded stops with it. -/
theorem step_faulted {s : State} {f : Fault} (h : s.fault = some f) : step s = .fault f := by
  simp [step, machineStep, h]

/-- Without one the agent whose turn it is takes the step. -/
theorem step_eq {s : State} (h : s.fault = none) : step s = actorStep s.turn (useChoice s) := by
  simp [step, machineStep, h]

/-- A step that answers a next state had no fault recorded, and is the step of the agent whose turn it
is, from the state with that choice used up. -/
theorem step_next {s t : State} (h : step s = .next t) :
    s.fault = none ∧ actorStep s.turn (useChoice s) = .next t := by
  cases hf : s.fault with
  | some f => simp [step_faulted hf] at h
  | none => exact ⟨rfl, (step_eq hf).symm.trans h⟩

/-- What HOST does with an accepted word. -/
theorem fetchedWord_instr {w : Word} {i : Instr} (h : decode w = .instr i) :
    fetchedWord w = .instr i := by simp [fetchedWord, h]

theorem fetch_thread {s : State} {w : Word} (ha : s.irqActive = false)
    (hw : s.launch.prog[s.pc]? = some w) : fetch s = fetchedWord w := by
  simp [fetch, ha, hw]

theorem fetch_handler {s : State} {w : Word} (ha : s.irqActive = true)
    (hw : handlerProgram[s.hpc]? = some w) : fetch s = fetchedWord w := by
  simp [fetch, ha, hw]

theorem hostStep_instr {s : State} {i : Instr} (h : fetch s = .instr i) :
    hostStep s = exec i s := by simp [hostStep, h]

/-- HOST's step, when it answers a next state, ran an instruction, took an illegal word's fault, or
found the program ended. -/
theorem hostStep_next {s t : State} (h : hostStep s = .next t) :
    (∃ i, fetch s = .instr i ∧ exec i s = .next t) ∨
    (∃ f, fetch s = .illegal f ∧ t = { s with fault := some f }) ∨
    (fetch s = .ended ∧ t = s) := by
  unfold hostStep at h
  split at h
  · next i hi => exact .inl ⟨i, hi, h⟩
  · next f hi => exact .inr (.inl ⟨f, hi, (Host.Outcome.next.inj h).symm⟩)
  · next hi => exact .inr (.inr ⟨hi, (Host.Outcome.next.inj h).symm⟩)
  · cases h

/-- The fetch does not depend on the choice used up. -/
@[simp] theorem fetch_useChoice (s : State) : fetch (useChoice s) = fetch s := rfl

/-! The agents' steps. -/

/-- Every next state of SHIFT.start. -/
theorem shiftStart_next {s t : State} (h : shiftStart s = .next t) :
    (∃ b d, s.tdr = some b ∧ s.brgDiv = some d ∧
      t = flagsAfterStart { s with tsr := some b, fdiv := some d }) ∨
    ((s.tdr = none ∨ s.brgDiv = none) ∧ t = { s with fault := some .uninit }) := by
  rcases Option.eq_none_or_eq_some s.tdr with hb | ⟨b, hb⟩
  · simp only [shiftStart, hb] at h
    exact .inr ⟨.inl hb, (Host.Outcome.next.inj h).symm⟩
  · rcases Option.eq_none_or_eq_some s.brgDiv with hd | ⟨d, hd⟩
    · simp only [shiftStart, hb, hd] at h
      exact .inr ⟨.inr hd, (Host.Outcome.next.inj h).symm⟩
    · simp only [shiftStart, hb, hd] at h
      exact .inl ⟨b, d, hb, hd, by rw [hb, hd, ← Host.Outcome.next.inj h]⟩

/-- Every next state of SHIFT.complete once its guard holds. -/
theorem shiftComplete_next {s t : State} (hr : shiftCompleteReady s = true)
    (h : shiftComplete s = .next t) :
    (∃ b d r, s.tsr = some b ∧ s.fdiv = some d ∧ frameAnswer s b d = some r ∧
      ((s.rxne = true ∧ t = { s with fault := some .overrun }) ∨
        (s.rxne = false ∧ t = record (.frame s.frames b r d)
          (flagsAfterComplete { s with rdr := some r, frames := s.frames + 1 })))) ∨
    ((s.tsr = none ∨ s.fdiv = none) ∧ t = { s with fault := some .uninit }) := by
  rcases Option.eq_none_or_eq_some s.tsr with hb | ⟨b, hb⟩
  · simp only [shiftComplete, hb] at h
    exact .inr ⟨.inl hb, (Host.Outcome.next.inj h).symm⟩
  · rcases Option.eq_none_or_eq_some s.fdiv with hd | ⟨d, hd⟩
    · simp only [shiftComplete, hb, hd] at h
      exact .inr ⟨.inr hd, (Host.Outcome.next.inj h).symm⟩
    · cases ha : frameAnswer s b d with
      | none => simp [shiftCompleteReady, frameAnswered, hb, hd, ha] at hr
      | some r =>
        simp only [shiftComplete, hb, hd, ha] at h
        refine .inl ⟨b, d, r, hb, hd, ha, ?_⟩
        obtain ⟨hx, h⟩ | ⟨hx, h⟩ := require_next h
        · exact .inr ⟨by simpa using hx, by rw [← Host.Outcome.next.inj h, hb, hd]⟩
        · exact .inl ⟨by simpa using hx, h⟩

/-- Every next state of the DMA.TX beat. -/
theorem dmaTxBeat_next {s t : State} (h : dmaTxBeat s = .next t) :
    (∃ d, s.tx.loaded = some d ∧ d.dir = true ∧
      ((s.mayRead d.maddr = false ∧ t = { s with fault := some .mem }) ∨
        (s.mayRead d.maddr = true ∧
          t = setTx (s.tx.afterBeat d)
            (writeDataRegister (s.byteAt d.maddr) (noteRead .dmaTx d.maddr s))))) ∨
    (s.tx.loaded = none ∧ t = { s with fault := some .uninit }) := by
  unfold dmaTxBeat at h
  split at h
  · next hl => exact .inr ⟨hl, (Host.Outcome.next.inj h).symm⟩
  · next d hl =>
    split at h
    · next hd =>
      refine .inl ⟨d, hl, hd, ?_⟩
      obtain ⟨hx, h⟩ | ⟨hx, h⟩ := require_next h
      · exact .inr ⟨hx, (Host.Outcome.next.inj h).symm⟩
      · exact .inl ⟨hx, h⟩
    · cases h

/-- Every next state of the DMA.RX beat. -/
theorem dmaRxBeat_next {s t : State} (h : dmaRxBeat s = .next t) :
    (∃ d b, s.rx.loaded = some d ∧ s.rdr = some b ∧ d.dir = false ∧
      ((s.mayWrite d.maddr = false ∧ t = { s with fault := some .mem }) ∨
        (s.mayWrite d.maddr = true ∧
          t = setRx (s.rx.afterBeat d) (storeByte .dmaRx d.maddr b (afterDataRead s))))) ∨
    ((s.rx.loaded = none ∨ s.rdr = none) ∧ t = { s with fault := some .uninit }) := by
  rcases Option.eq_none_or_eq_some s.rx.loaded with hl | ⟨d, hl⟩
  · simp only [dmaRxBeat, hl] at h
    exact .inr ⟨.inl hl, (Host.Outcome.next.inj h).symm⟩
  · rcases Option.eq_none_or_eq_some s.rdr with hb | ⟨b, hb⟩
    · simp only [dmaRxBeat, hl, hb] at h
      exact .inr ⟨.inr hb, (Host.Outcome.next.inj h).symm⟩
    · simp only [dmaRxBeat, hl, hb] at h
      split at h
      · cases h
      · next hd =>
        refine .inl ⟨d, b, hl, hb, by simpa using hd, ?_⟩
        obtain ⟨hx, h⟩ | ⟨hx, h⟩ := require_next h
        · exact .inr ⟨hx, (Host.Outcome.next.inj h).symm⟩
        · exact .inl ⟨hx, h⟩

/-- Every next state of BRG.tick. -/
theorem brgTick_next {s t : State} (h : brgTick s = .next t) :
    (∃ c d, s.brgCnt = some c ∧ c.toNat ≤ 1 ∧ s.brgDiv = some d ∧
      t = { s with brgCnt := some d, baudTick := true }) ∨
    (∃ c, s.brgCnt = some c ∧ 1 < c.toNat ∧
      t = { s with brgCnt := some (c - 1), baudTick := false }) ∨
    ((s.brgCnt = none ∨ s.brgDiv = none) ∧ t = { s with fault := some .uninit }) := by
  rcases Option.eq_none_or_eq_some s.brgCnt with hc | ⟨c, hc⟩
  · simp only [brgTick, hc] at h
    exact .inr (.inr ⟨.inl hc, (Host.Outcome.next.inj h).symm⟩)
  · by_cases hle : c.toNat ≤ 1
    · rcases Option.eq_none_or_eq_some s.brgDiv with hd | ⟨d, hd⟩
      · simp only [brgTick, hc, hle, hd, if_true] at h
        exact .inr (.inr ⟨.inr hd, (Host.Outcome.next.inj h).symm⟩)
      · simp only [brgTick, hc, hle, hd, if_true] at h
        exact .inl ⟨c, d, hc, hle, hd, by rw [hd, ← Host.Outcome.next.inj h]⟩
    · simp only [brgTick, hc, hle, if_false] at h
      exact .inr (.inl ⟨c, hc, by omega, (Host.Outcome.next.inj h).symm⟩)

/-! The guards. -/

theorem shiftStartReady_iff {s : State} : shiftStartReady s = true ↔
    s.fault = none ∧ s.ue = true ∧ s.txe = false ∧ s.busy = false := by
  simp [shiftStartReady, and_assoc]

theorem shiftCompleteReady_iff {s : State} : shiftCompleteReady s = true ↔
    s.fault = none ∧ s.busy = true ∧ s.pinTxl = .afOdNoPull ∧ s.pinRxl = .afOdNoPull ∧
      frameAnswered s = true ∧ s.reqRx = false := by
  simp [shiftCompleteReady, State.pinsReady, and_assoc]

theorem dmaTxReady_iff {s : State} : dmaTxReady s = true ↔
    s.fault = none ∧ s.reqTx = true ∧ ¬ (s.launch.arb = .rxFirst ∧ s.reqRx = true) := by
  simp [dmaTxReady, and_assoc, imp_iff_not_or]

theorem dmaRxReady_iff {s : State} : dmaRxReady s = true ↔
    s.fault = none ∧ s.reqRx = true ∧ ¬ (s.launch.arb = .txFirst ∧ s.reqTx = true) := by
  simp [dmaRxReady, and_assoc, imp_iff_not_or]

theorem irqEntryReady_iff {s : State} : irqEntryReady s = true ↔
    s.fault = none ∧ s.rx.tc = true ∧ s.rxTcie = true ∧ s.irqEn = true ∧ s.irqActive = false ∧
      s.irqOk = true := by
  simp [irqEntryReady, State.irqLine, and_assoc]

theorem brgTickReady_iff {s : State} : brgTickReady s = true ↔ s.fault = none ∧ s.ue = true := by
  simp [brgTickReady]

/-! Executions (R82, R111). -/

/-- The thread program of a finite execution is accepted. -/
theorem Reaches.accepted {s t : State} (h : Reaches s t) : programAccepted s.launch.prog = true := by
  induction h with
  | start accepted => exact accepted
  | next _ _ ih => exact ih

/-- A refused program has no execution, finite or infinite. -/
theorem refused_no_execution {s : State} (h : programAccepted s.launch.prog = false) :
    (∀ t, ¬ Reaches s t) ∧ ∀ e, e 0 = s → ¬ Execution e :=
  ⟨fun _ hr => by simp [hr.accepted] at h, fun _ he hx => by simp [← he, hx.1] at h⟩

/-- The states of an execution are reached from its first. -/
theorem Execution.reaches {e : Nat → State} (h : Execution e) : ∀ n, Reaches (e 0) (e n)
  | 0 => .start h.1
  | n + 1 => .next (h.reaches n) (h.2 n)

end Sys2Proof.Machine
end

