-- ==== Sys2Proof/Laws/Exec.lean ====
section
/-! SUPPORT. What each instruction can do: every next state it answers is the state with a fault recorded,
or the state the instruction's own rule gives, with the conditions under which it gives it. -/

namespace Sys2Proof.Machine

/-- The state with a fault recorded and nothing else changed. -/
def Faulted (s t : State) : Prop := ∃ f, t = { s with fault := some f }

theorem Faulted.intro (f : Fault) (s : State) : Faulted s { s with fault := some f } := ⟨f, rfl⟩

/-- A check passed, or its fault was taken. -/
theorem require_cases {ok : Bool} {f : Fault} {s t : State} {r : Result}
    (h : require ok f s r = .next t) : Faulted s t ∨ (ok = true ∧ r = .next t) :=
  (require_next h).symm.imp (fun h => ⟨f, h.2⟩) id

/-- A gated instruction of THREAD faulted or reached its rule. -/
theorem gatedThread_next {s t : State} {r : Result} (h : gatedThread s r = .next t) :
    s.fault = none ∧
      (Faulted s t ∨ (s.irqActive = false ∧ s.clkOn = true ∧ r = .next t)) := by
  obtain ⟨hf, ⟨_, rfl⟩ | ⟨_, _, _, rfl⟩ | ⟨hc, hk, hr⟩⟩ := prelude_next h
  · exact ⟨hf, .inl ⟨_, rfl⟩⟩
  · exact ⟨hf, .inl ⟨_, rfl⟩⟩
  · exact ⟨hf, .inr ⟨by simpa using hc, hk rfl, hr⟩⟩

/-- An ungated instruction of THREAD faulted or reached its rule. -/
theorem freeThread_next {s t : State} {r : Result} (h : freeThread s r = .next t) :
    s.fault = none ∧ (Faulted s t ∨ (s.irqActive = false ∧ r = .next t)) := by
  obtain ⟨hf, ⟨_, rfl⟩ | ⟨_, _, _, rfl⟩ | ⟨hc, _, hr⟩⟩ := prelude_next h
  · exact ⟨hf, .inl ⟨_, rfl⟩⟩
  · exact ⟨hf, .inl ⟨_, rfl⟩⟩
  · exact ⟨hf, .inr ⟨by simpa using hc, hr⟩⟩

/-- An instruction of HANDLER faulted or reached its rule. -/
theorem handlerOnly_next {s t : State} {r : Result} (h : handlerOnly s r = .next t) :
    s.fault = none ∧ (Faulted s t ∨ (s.irqActive = true ∧ r = .next t)) := by
  obtain ⟨hf, ⟨_, rfl⟩ | ⟨_, _, _, rfl⟩ | ⟨hc, _, hr⟩⟩ := prelude_next h
  · exact ⟨hf, .inl ⟨_, rfl⟩⟩
  · exact ⟨hf, .inl ⟨_, rfl⟩⟩
  · exact ⟨hf, .inr ⟨by simpa using hc, hr⟩⟩

/-! Peripheral Configuration. -/

theorem execBue_next {k : BitVec 8} {s t : State} (h : execBue k s = .next t) :
    s.fault = none ∧ (Faulted s t ∨ (s.irqActive = false ∧
      t = { s with pc := if s.ue then branchTarget s.pc k else s.pc + 1 })) :=
  (freeThread_next h).imp_right (Or.imp_right (And.imp_right fun h =>
    (Host.Outcome.next.inj h).symm))

theorem execClken_next {s t : State} (h : execClken s = .next t) :
    s.fault = none ∧ (Faulted s t ∨ (s.irqActive = false ∧ t = advance { s with clkOn := true })) :=
  (freeThread_next h).imp_right (Or.imp_right (And.imp_right fun h =>
    (Host.Outcome.next.inj h).symm))

theorem execPincfg_next {s t : State} (h : execPincfg s = .next t) :
    s.fault = none ∧ (Faulted s t ∨ (s.irqActive = false ∧ s.clkOn = true ∧ s.idle = true ∧
      t = advance { s with pinTxl := .afOdNoPull, pinRxl := .afOdNoPull })) := by
  obtain ⟨hf, h | ⟨ha, hk, h⟩⟩ := gatedThread_next h
  · exact ⟨hf, .inl h⟩
  · exact ⟨hf, (require_cases h).imp_right fun h =>
      ⟨ha, hk, h.1, (Host.Outcome.next.inj h.2).symm⟩⟩

theorem execDmawire_next {s t : State} (h : execDmawire s = .next t) :
    s.fault = none ∧ (Faulted s t ∨ (s.irqActive = false ∧ s.clkOn = true ∧ s.idle = true ∧
      t = advance { s with tx := s.tx.wire true, rx := s.rx.wire false, wired := true })) := by
  obtain ⟨hf, h | ⟨ha, hk, h⟩⟩ := gatedThread_next h
  · exact ⟨hf, .inl h⟩
  · exact ⟨hf, (require_cases h).imp_right fun h =>
      ⟨ha, hk, h.1, (Host.Outcome.next.inj h.2).symm⟩⟩

theorem execIrqen_next {s t : State} (h : execIrqen s = .next t) :
    s.fault = none ∧ (Faulted s t ∨ (s.irqActive = false ∧
      t = advance { s with irqPrio := some Config.irqPrio, irqEn := true })) :=
  (freeThread_next h).imp_right (Or.imp_right (And.imp_right fun h =>
    (Host.Outcome.next.inj h).symm))

theorem execUedis_next {s t : State} (h : execUedis s = .next t) :
    s.fault = none ∧ (Faulted s t ∨ (s.irqActive = false ∧ s.clkOn = true ∧ s.idle = true ∧
      t = advance { s with ue := false, baudTick := false })) := by
  obtain ⟨hf, h | ⟨ha, hk, h⟩⟩ := gatedThread_next h
  · exact ⟨hf, .inl h⟩
  · exact ⟨hf, (require_cases h).imp_right fun h =>
      ⟨ha, hk, h.1, (Host.Outcome.next.inj h.2).symm⟩⟩

theorem execClkrd_next {s t : State} (h : execClkrd s = .next t) :
    s.fault = none ∧ (Faulted s t ∨ (s.irqActive = false ∧
      t = advance (record (.clkRead s.clockAnswer) (useClock { s with clkF := some s.clockAnswer })))) :=
  (freeThread_next h).imp_right (Or.imp_right (And.imp_right fun h =>
    (Host.Outcome.next.inj h).symm))

theorem execBrgld_next {rate : Rate} {s t : State} (h : execBrgld rate s = .next t) :
    s.fault = none ∧ (Faulted s t ∨ (s.irqActive = false ∧ s.clkOn = true ∧ s.ue = false ∧
      rate ≠ 0 ∧ ∃ f, s.clkF = some f ∧ divisorFits (brgDivisor f.toNat rate.toNat) = true ∧
      t = advance (record (.divLoad rate f (BitVec.ofNat 16 (brgDivisor f.toNat rate.toNat)))
        { s with
          brgDiv := some (BitVec.ofNat 16 (brgDivisor f.toNat rate.toNat))
          brgRate := some rate }))) := by
  obtain ⟨hf, h | ⟨ha, hk, h⟩⟩ := gatedThread_next h
  · exact ⟨hf, .inl h⟩
  refine ⟨hf, ?_⟩
  obtain h | ⟨hu, h⟩ := require_cases h
  · exact .inl h
  split at h
  · exact .inl ⟨_, (Host.Outcome.next.inj h).symm⟩
  · next f hc =>
    obtain h | ⟨hr, h⟩ := require_cases h
    · exact .inl h
    obtain h | ⟨hd, h⟩ := require_cases h
    · exact .inl h
    exact .inr ⟨ha, hk, by simpa using hu, by simpa using hr, f, hc, hd,
      (Host.Outcome.next.inj h).symm⟩

theorem execUeen_next {s t : State} (h : execUeen s = .next t) :
    s.fault = none ∧ (Faulted s t ∨ (s.irqActive = false ∧ s.clkOn = true ∧
      ∃ d, s.brgDiv = some d ∧
        ((s.ue = true ∧ t = advance s) ∨
          (s.ue = false ∧ t = advance { s with ue := true, brgCnt := some d })))) := by
  obtain ⟨hf, h | ⟨ha, hk, h⟩⟩ := gatedThread_next h
  · exact ⟨hf, .inl h⟩
  refine ⟨hf, ?_⟩
  split at h
  · exact .inl ⟨_, (Host.Outcome.next.inj h).symm⟩
  · next d hd =>
    refine .inr ⟨ha, hk, d, hd, ?_⟩
    cases hu : s.ue <;> rw [hu] at h
    · exact .inr ⟨rfl, (Host.Outcome.next.inj h).symm⟩
    · exact .inl ⟨rfl, (Host.Outcome.next.inj h).symm⟩

/-! DMA Transceiver Path. -/

theorem execFclr_next {m : BitVec 2} {s t : State} (h : execFclr m s = .next t) :
    s.fault = none ∧ (Faulted s t ∨ (s.clkOn = true ∧ (s.irqActive = true → m = maskRxOnly) ∧
      t = advance (clearFlags m s))) := by
  obtain ⟨hf, ⟨_, rfl⟩ | ⟨_, _, _, rfl⟩ | ⟨_, hk, hr⟩⟩ := prelude_next h
  · exact ⟨hf, .inl ⟨_, rfl⟩⟩
  · exact ⟨hf, .inl ⟨_, rfl⟩⟩
  · refine ⟨hf, (require_cases hr).imp_right fun h => ⟨hk rfl, fun ha => ?_, ?_⟩⟩
    · simpa [ha] using h.1
    · exact (Host.Outcome.next.inj h.2).symm

theorem execLenldTx_next {len : Len} {s t : State} (h : execLenldTx len s = .next t) :
    s.fault = none ∧ (Faulted s t ∨ (s.irqActive = false ∧ s.clkOn = true ∧ s.tx.en = false ∧
      t = advance { s with tx := { s.tx with cnt := some len } })) := by
  obtain ⟨hf, h | ⟨ha, hk, h⟩⟩ := gatedThread_next h
  · exact ⟨hf, .inl h⟩
  · exact ⟨hf, (require_cases h).imp_right fun h =>
      ⟨ha, hk, by simpa using h.1, (Host.Outcome.next.inj h.2).symm⟩⟩

theorem execMaldTx_next {addr : Addr} {s t : State} (h : execMaldTx addr s = .next t) :
    s.fault = none ∧ (Faulted s t ∨ (s.irqActive = false ∧ s.clkOn = true ∧ s.tx.en = false ∧
      t = advance { s with tx := { s.tx with maddr := some addr } })) := by
  obtain ⟨hf, h | ⟨ha, hk, h⟩⟩ := gatedThread_next h
  · exact ⟨hf, .inl h⟩
  · exact ⟨hf, (require_cases h).imp_right fun h =>
      ⟨ha, hk, by simpa using h.1, (Host.Outcome.next.inj h.2).symm⟩⟩

theorem execLenldRx_next {len : Len} {s t : State} (h : execLenldRx len s = .next t) :
    s.fault = none ∧ (Faulted s t ∨ (s.irqActive = false ∧ s.clkOn = true ∧ s.rx.en = false ∧
      t = advance { s with rx := { s.rx with cnt := some len } })) := by
  obtain ⟨hf, h | ⟨ha, hk, h⟩⟩ := gatedThread_next h
  · exact ⟨hf, .inl h⟩
  · exact ⟨hf, (require_cases h).imp_right fun h =>
      ⟨ha, hk, by simpa using h.1, (Host.Outcome.next.inj h.2).symm⟩⟩

theorem execMaldRx_next {addr : Addr} {s t : State} (h : execMaldRx addr s = .next t) :
    s.fault = none ∧ (Faulted s t ∨ (s.irqActive = false ∧ s.clkOn = true ∧ s.rx.en = false ∧
      t = advance { s with rx := { s.rx with maddr := some addr } })) := by
  obtain ⟨hf, h | ⟨ha, hk, h⟩⟩ := gatedThread_next h
  · exact ⟨hf, .inl h⟩
  · exact ⟨hf, (require_cases h).imp_right fun h =>
      ⟨ha, hk, by simpa using h.1, (Host.Outcome.next.inj h.2).symm⟩⟩

theorem execDoneclr_next {s t : State} (h : execDoneclr s = .next t) :
    s.fault = none ∧ (Faulted s t ∨ (s.irqActive = false ∧ s.tx.en = false ∧ s.rx.en = false ∧
      t = advance (record .doneClr { s with done := false }))) := by
  obtain ⟨hf, h | ⟨ha, h⟩⟩ := freeThread_next h
  · exact ⟨hf, .inl h⟩
  · refine ⟨hf, (require_cases h).imp_right fun h => ?_⟩
    obtain ⟨h1, h2⟩ : s.tx.en = false ∧ s.rx.en = false := by simpa using h.1
    exact ⟨ha, h1, h2, (Host.Outcome.next.inj h.2).symm⟩

theorem execDrqen_next {s t : State} (h : execDrqen s = .next t) :
    s.fault = none ∧ (Faulted s t ∨ (s.irqActive = false ∧ s.clkOn = true ∧ s.ue = true ∧
      t = advance { s with dmat := true, dmar := true })) := by
  obtain ⟨hf, h | ⟨ha, hk, h⟩⟩ := gatedThread_next h
  · exact ⟨hf, .inl h⟩
  · exact ⟨hf, (require_cases h).imp_right fun h =>
      ⟨ha, hk, h.1, (Host.Outcome.next.inj h.2).symm⟩⟩

theorem execTcien_next {s t : State} (h : execTcien s = .next t) :
    s.fault = none ∧ (Faulted s t ∨ (s.irqActive = false ∧ s.clkOn = true ∧
      t = advance { s with rxTcie := true })) :=
  (gatedThread_next h).imp_right (Or.imp_right (And.imp_right (And.imp_right fun h =>
    (Host.Outcome.next.inj h).symm)))

theorem execChenRx_next {s t : State} (h : execChenRx s = .next t) :
    s.fault = none ∧ (Faulted s t ∨ (s.irqActive = false ∧ s.clkOn = true ∧ s.wired = true ∧
      s.rx.en = false ∧ (∃ a n, s.rx.maddr = some a ∧ s.rx.cnt = some n ∧ wellPlaced a n = true) ∧
      t = advance { s with rx := { s.rx with en := true } })) := by
  obtain ⟨hf, h | ⟨ha, hk, h⟩⟩ := gatedThread_next h
  · exact ⟨hf, .inl h⟩
  refine ⟨hf, ?_⟩
  obtain h | ⟨hw, h⟩ := require_cases h
  · exact .inl h
  split at h
  · next a n hm hn =>
    obtain h | ⟨he, h⟩ := require_cases h
    · exact .inl h
    obtain h | ⟨hp, h⟩ := require_cases h
    · exact .inl h
    exact .inr ⟨ha, hk, hw, by simpa using he, ⟨a, n, hm, hn, hp⟩, (Host.Outcome.next.inj h).symm⟩
  · exact .inl ⟨_, (Host.Outcome.next.inj h).symm⟩

theorem execChenTx_next {s t : State} (h : execChenTx s = .next t) :
    s.fault = none ∧ (Faulted s t ∨ (s.irqActive = false ∧ s.clkOn = true ∧ s.wired = true ∧
      s.tx.en = false ∧ (∃ ta ra n, s.tx.maddr = some ta ∧ s.tx.cnt = some n ∧
        s.rx.maddr = some ra ∧ s.rx.cnt = some n ∧ wellPlaced ta n = true ∧
        buffersOverlap ta n ra n = false) ∧
      t = advance { s with tx := { s.tx with en := true } })) := by
  obtain ⟨hf, h | ⟨ha, hk, h⟩⟩ := gatedThread_next h
  · exact ⟨hf, .inl h⟩
  refine ⟨hf, ?_⟩
  obtain h | ⟨hw, h⟩ := require_cases h
  · exact .inl h
  split at h
  · next ta tn ra rn h1 h2 h3 h4 =>
    obtain h | ⟨he, h⟩ := require_cases h
    · exact .inl h
    obtain h | ⟨hl, h⟩ := require_cases h
    · exact .inl h
    obtain h | ⟨hp, h⟩ := require_cases h
    · exact .inl h
    obtain h | ⟨ho, h⟩ := require_cases h
    · exact .inl h
    have hl' : tn = rn := by simpa using hl
    exact .inr ⟨ha, hk, hw, by simpa using he, ⟨ta, ra, tn, h1, h2, h3, hl' ▸ h4, hp,
      by simpa [hl'] using ho⟩, (Host.Outcome.next.inj h).symm⟩
  · exact .inl ⟨_, (Host.Outcome.next.inj h).symm⟩

theorem execWdone_next {b : Bool} {s t : State} (h : execWdone b s = .next t) :
    s.fault = none ∧ (Faulted s t ∨ (s.irqActive = false ∧
      ((s.done = true ∧ t = advance s) ∨ (s.done = false ∧ t = s)))) := by
  obtain ⟨hf, h | ⟨ha, h⟩⟩ := freeThread_next h
  · exact ⟨hf, .inl h⟩
  refine ⟨hf, .inr ⟨ha, ?_⟩⟩
  split at h
  · next hd => exact .inl ⟨hd, (Host.Outcome.next.inj h).symm⟩
  · next hd => exact .inr ⟨by simpa using hd, (Host.Outcome.next.inj h).symm⟩

theorem execDrqdis_next {s t : State} (h : execDrqdis s = .next t) :
    s.fault = none ∧ (Faulted s t ∨ (s.irqActive = false ∧ s.clkOn = true ∧
      t = advance { s with dmat := false, dmar := false })) :=
  (gatedThread_next h).imp_right (Or.imp_right (And.imp_right (And.imp_right fun h =>
    (Host.Outcome.next.inj h).symm)))

/-! Completion Synchronization. -/

theorem execDoneset_next {s t : State} (h : execDoneset s = .next t) :
    s.fault = none ∧ (Faulted s t ∨ (s.irqActive = true ∧
      t = advance (record .doneSet { s with done := true }))) :=
  (handlerOnly_next h).imp_right (Or.imp_right (And.imp_right fun h =>
    (Host.Outcome.next.inj h).symm))

theorem execIret_next {s t : State} (h : execIret s = .next t) :
    s.fault = none ∧ (Faulted s t ∨ (s.irqActive = true ∧ t = returnFromInterrupt s)) :=
  (handlerOnly_next h).imp_right (Or.imp_right (And.imp_right fun h =>
    (Host.Outcome.next.inj h).symm))

/-! Polling Transceiver Path. -/

theorem execPut_next {addr : Addr} {s t : State} (h : execPut addr s = .next t) :
    s.fault = none ∧ (Faulted s t ∨ (s.irqActive = false ∧ s.clkOn = true ∧ s.ue = true ∧
      s.txe = true ∧ s.mayRead addr = true ∧
      t = advance (writeDataRegister (s.byteAt addr) (noteRead .host addr s)))) := by
  obtain ⟨hf, h | ⟨ha, hk, h⟩⟩ := gatedThread_next h
  · exact ⟨hf, .inl h⟩
  refine ⟨hf, ?_⟩
  obtain h | ⟨hu, h⟩ := require_cases h
  · exact .inl h
  obtain h | ⟨ht, h⟩ := require_cases h
  · exact .inl h
  obtain h | ⟨hm, h⟩ := require_cases h
  · exact .inl h
  exact .inr ⟨ha, hk, hu, ht, hm, (Host.Outcome.next.inj h).symm⟩

theorem execWtxe_next {s t : State} (h : execWtxe s = .next t) :
    s.fault = none ∧ (Faulted s t ∨ (s.irqActive = false ∧ s.clkOn = true ∧
      ((s.txe = true ∧ t = advance s) ∨ (s.txe = false ∧ t = s)))) := by
  obtain ⟨hf, h | ⟨ha, hk, h⟩⟩ := gatedThread_next h
  · exact ⟨hf, .inl h⟩
  refine ⟨hf, .inr ⟨ha, hk, ?_⟩⟩
  split at h
  · next hd => exact .inl ⟨hd, (Host.Outcome.next.inj h).symm⟩
  · next hd => exact .inr ⟨by simpa using hd, (Host.Outcome.next.inj h).symm⟩

theorem execWrxne_next {s t : State} (h : execWrxne s = .next t) :
    s.fault = none ∧ (Faulted s t ∨ (s.irqActive = false ∧ s.clkOn = true ∧
      ((s.rxne = true ∧ t = advance s) ∨ (s.rxne = false ∧ t = s)))) := by
  obtain ⟨hf, h | ⟨ha, hk, h⟩⟩ := gatedThread_next h
  · exact ⟨hf, .inl h⟩
  refine ⟨hf, .inr ⟨ha, hk, ?_⟩⟩
  split at h
  · next hd => exact .inl ⟨hd, (Host.Outcome.next.inj h).symm⟩
  · next hd => exact .inr ⟨by simpa using hd, (Host.Outcome.next.inj h).symm⟩

theorem execGet_next {addr : Addr} {s t : State} (h : execGet addr s = .next t) :
    s.fault = none ∧ (Faulted s t ∨ (s.irqActive = false ∧ s.clkOn = true ∧ s.rxne = true ∧
      s.mayWrite addr = true ∧ ∃ b, s.rdr = some b ∧
      t = advance (afterDataRead (storeByte .host addr b s)))) := by
  obtain ⟨hf, h | ⟨ha, hk, h⟩⟩ := gatedThread_next h
  · exact ⟨hf, .inl h⟩
  refine ⟨hf, ?_⟩
  obtain h | ⟨hx, h⟩ := require_cases h
  · exact .inl h
  obtain h | ⟨hm, h⟩ := require_cases h
  · exact .inl h
  rcases Option.eq_none_or_eq_some s.rdr with hb | ⟨b, hb⟩
  · rw [hb] at h
    exact .inl ⟨_, (Host.Outcome.next.inj h).symm⟩
  · rw [hb] at h
    exact .inr ⟨ha, hk, hx, hm, b, hb, (Host.Outcome.next.inj h).symm⟩

/-! All instructions at once. -/

/-- What an instruction that did not fault did: the conditions under which its rule acts, and the
state it leaves. -/
def Effect (s t : State) : Instr → Prop
  | .bue k => s.irqActive = false ∧
      t = { s with pc := if s.ue then branchTarget s.pc k else s.pc + 1 }
  | .clken => s.irqActive = false ∧ t = advance { s with clkOn := true }
  | .pincfg => s.irqActive = false ∧ s.clkOn = true ∧ s.idle = true ∧
      t = advance { s with pinTxl := .afOdNoPull, pinRxl := .afOdNoPull }
  | .dmawire => s.irqActive = false ∧ s.clkOn = true ∧ s.idle = true ∧
      t = advance { s with tx := s.tx.wire true, rx := s.rx.wire false, wired := true }
  | .irqen => s.irqActive = false ∧
      t = advance { s with irqPrio := some Config.irqPrio, irqEn := true }
  | .uedis => s.irqActive = false ∧ s.clkOn = true ∧ s.idle = true ∧
      t = advance { s with ue := false, baudTick := false }
  | .clkrd => s.irqActive = false ∧
      t = advance (record (.clkRead s.clockAnswer) (useClock { s with clkF := some s.clockAnswer }))
  | .brgld rate => s.irqActive = false ∧ s.clkOn = true ∧ s.ue = false ∧ rate ≠ 0 ∧
      ∃ f, s.clkF = some f ∧ divisorFits (brgDivisor f.toNat rate.toNat) = true ∧
      t = advance (record (.divLoad rate f (BitVec.ofNat 16 (brgDivisor f.toNat rate.toNat)))
        { s with
          brgDiv := some (BitVec.ofNat 16 (brgDivisor f.toNat rate.toNat))
          brgRate := some rate })
  | .ueen => s.irqActive = false ∧ s.clkOn = true ∧ ∃ d, s.brgDiv = some d ∧
      ((s.ue = true ∧ t = advance s) ∨
        (s.ue = false ∧ t = advance { s with ue := true, brgCnt := some d }))
  | .fclr m => s.clkOn = true ∧ (s.irqActive = true → m = maskRxOnly) ∧ t = advance (clearFlags m s)
  | .lenldTx len => s.irqActive = false ∧ s.clkOn = true ∧ s.tx.en = false ∧
      t = advance { s with tx := { s.tx with cnt := some len } }
  | .maldTx addr => s.irqActive = false ∧ s.clkOn = true ∧ s.tx.en = false ∧
      t = advance { s with tx := { s.tx with maddr := some addr } }
  | .lenldRx len => s.irqActive = false ∧ s.clkOn = true ∧ s.rx.en = false ∧
      t = advance { s with rx := { s.rx with cnt := some len } }
  | .maldRx addr => s.irqActive = false ∧ s.clkOn = true ∧ s.rx.en = false ∧
      t = advance { s with rx := { s.rx with maddr := some addr } }
  | .doneclr => s.irqActive = false ∧ s.tx.en = false ∧ s.rx.en = false ∧
      t = advance (record .doneClr { s with done := false })
  | .drqen => s.irqActive = false ∧ s.clkOn = true ∧ s.ue = true ∧
      t = advance { s with dmat := true, dmar := true }
  | .tcien => s.irqActive = false ∧ s.clkOn = true ∧ t = advance { s with rxTcie := true }
  | .chenRx => s.irqActive = false ∧ s.clkOn = true ∧ s.wired = true ∧ s.rx.en = false ∧
      (∃ a n, s.rx.maddr = some a ∧ s.rx.cnt = some n ∧ wellPlaced a n = true) ∧
      t = advance { s with rx := { s.rx with en := true } }
  | .chenTx => s.irqActive = false ∧ s.clkOn = true ∧ s.wired = true ∧ s.tx.en = false ∧
      (∃ ta ra n, s.tx.maddr = some ta ∧ s.tx.cnt = some n ∧ s.rx.maddr = some ra ∧
        s.rx.cnt = some n ∧ wellPlaced ta n = true ∧ buffersOverlap ta n ra n = false) ∧
      t = advance { s with tx := { s.tx with en := true } }
  | .wdone _ => s.irqActive = false ∧
      ((s.done = true ∧ t = advance s) ∨ (s.done = false ∧ t = s))
  | .drqdis => s.irqActive = false ∧ s.clkOn = true ∧
      t = advance { s with dmat := false, dmar := false }
  | .doneset => s.irqActive = true ∧ t = advance (record .doneSet { s with done := true })
  | .iret => s.irqActive = true ∧ t = returnFromInterrupt s
  | .put addr => s.irqActive = false ∧ s.clkOn = true ∧ s.ue = true ∧ s.txe = true ∧
      s.mayRead addr = true ∧
      t = advance (writeDataRegister (s.byteAt addr) (noteRead .host addr s))
  | .wtxe => s.irqActive = false ∧ s.clkOn = true ∧
      ((s.txe = true ∧ t = advance s) ∨ (s.txe = false ∧ t = s))
  | .wrxne => s.irqActive = false ∧ s.clkOn = true ∧
      ((s.rxne = true ∧ t = advance s) ∨ (s.rxne = false ∧ t = s))
  | .get addr => s.irqActive = false ∧ s.clkOn = true ∧ s.rxne = true ∧ s.mayWrite addr = true ∧
      ∃ b, s.rdr = some b ∧ t = advance (afterDataRead (storeByte .host addr b s))

/-- Every next state of every instruction. -/
theorem exec_next {i : Instr} {s t : State} (h : exec i s = .next t) :
    s.fault = none ∧ (Faulted s t ∨ Effect s t i) := by
  cases i with
  | bue k => exact execBue_next h
  | clken => exact execClken_next h
  | pincfg => exact execPincfg_next h
  | dmawire => exact execDmawire_next h
  | irqen => exact execIrqen_next h
  | uedis => exact execUedis_next h
  | clkrd => exact execClkrd_next h
  | brgld rate => exact execBrgld_next h
  | ueen => exact execUeen_next h
  | fclr m => exact execFclr_next h
  | lenldTx len => exact execLenldTx_next h
  | maldTx addr => exact execMaldTx_next h
  | lenldRx len => exact execLenldRx_next h
  | maldRx addr => exact execMaldRx_next h
  | doneclr => exact execDoneclr_next h
  | drqen => exact execDrqen_next h
  | tcien => exact execTcien_next h
  | chenRx => exact execChenRx_next h
  | chenTx => exact execChenTx_next h
  | wdone b => exact execWdone_next (b := b) h
  | drqdis => exact execDrqdis_next h
  | doneset => exact execDoneset_next h
  | iret => exact execIret_next h
  | put addr => exact execPut_next h
  | wtxe => exact execWtxe_next h
  | wrxne => exact execWrxne_next h
  | get addr => exact execGet_next h

/-! The agents. -/

/-- Every next state of an agent that is not HOST: a fault recorded, nothing changed, or the agent's own
action with its guard true. -/
theorem agentStep_next {a : Actor} {s t : State} (ha : a ≠ .host) (h : actorStep a s = .next t) :
    Faulted s t ∨ t = s ∨
    (a = .shiftStart ∧ shiftStartReady s = true ∧ ∃ b d, s.tdr = some b ∧ s.brgDiv = some d ∧
      t = flagsAfterStart { s with tsr := some b, fdiv := some d }) ∨
    (a = .shiftComplete ∧ shiftCompleteReady s = true ∧ ∃ b d r, s.tsr = some b ∧
      s.fdiv = some d ∧ frameAnswer s b d = some r ∧ s.rxne = false ∧ t = record (.frame s.frames b r d)
          (flagsAfterComplete { s with rdr := some r, frames := s.frames + 1 })) ∨
    (a = .dmaTx ∧ dmaTxReady s = true ∧ ∃ d, s.tx.loaded = some d ∧ d.dir = true ∧
      s.mayRead d.maddr = true ∧ t = setTx (s.tx.afterBeat d)
            (writeDataRegister (s.byteAt d.maddr) (noteRead .dmaTx d.maddr s))) ∨
    (a = .dmaRx ∧ dmaRxReady s = true ∧ ∃ d b, s.rx.loaded = some d ∧
      s.rdr = some b ∧ d.dir = false ∧ s.mayWrite d.maddr = true ∧
      t = setRx (s.rx.afterBeat d) (storeByte .dmaRx d.maddr b (afterDataRead s))) ∨
    (a = .irqEntry ∧ irqEntryReady s = true ∧ t = takeInterrupt s) ∨
    (a = .brgTick ∧ brgTickReady s = true ∧
      ((∃ c d, s.brgCnt = some c ∧ c.toNat ≤ 1 ∧ s.brgDiv = some d ∧
        t = { s with brgCnt := some d, baudTick := true }) ∨
      (∃ c, s.brgCnt = some c ∧ 1 < c.toNat ∧
        t = { s with brgCnt := some (c - 1), baudTick := false }))) := by
  cases a with
  | host => exact absurd rfl ha
  | shiftStart =>
    obtain ⟨hr, h⟩ | ⟨_, rfl⟩ := guarded_next h
    · obtain ⟨b, d, h1, h2, rfl⟩ | ⟨_, rfl⟩ := shiftStart_next h
      · exact .inr (.inr (.inl ⟨rfl, hr, b, d, h1, h2, rfl⟩))
      · exact .inl ⟨_, rfl⟩
    · exact .inr (.inl rfl)
  | shiftComplete =>
    obtain ⟨hr, h⟩ | ⟨_, rfl⟩ := guarded_next h
    · obtain ⟨b, d, r, h1, h2, h3, ⟨_, rfl⟩ | ⟨hx, rfl⟩⟩ | ⟨_, rfl⟩ := shiftComplete_next hr h
      · exact .inl ⟨_, rfl⟩
      · exact .inr (.inr (.inr (.inl ⟨rfl, hr, b, d, r, h1, h2, h3, hx, rfl⟩)))
      · exact .inl ⟨_, rfl⟩
    · exact .inr (.inl rfl)
  | dmaTx =>
    obtain ⟨hr, h⟩ | ⟨_, rfl⟩ := guarded_next h
    · obtain ⟨d, h1, h2, ⟨_, rfl⟩ | ⟨hx, rfl⟩⟩ | ⟨_, rfl⟩ := dmaTxBeat_next h
      · exact .inl ⟨_, rfl⟩
      · exact .inr (.inr (.inr (.inr (.inl ⟨rfl, hr, d, h1, h2, hx, rfl⟩))))
      · exact .inl ⟨_, rfl⟩
    · exact .inr (.inl rfl)
  | dmaRx =>
    obtain ⟨hr, h⟩ | ⟨_, rfl⟩ := guarded_next h
    · obtain ⟨d, b, h1, h2, h3, ⟨_, rfl⟩ | ⟨hx, rfl⟩⟩ | ⟨_, rfl⟩ := dmaRxBeat_next h
      · exact .inl ⟨_, rfl⟩
      · exact .inr (.inr (.inr (.inr (.inr (.inl ⟨rfl, hr, d, b, h1, h2, h3, hx, rfl⟩)))))
      · exact .inl ⟨_, rfl⟩
    · exact .inr (.inl rfl)
  | irqEntry =>
    obtain ⟨hr, h⟩ | ⟨_, rfl⟩ := guarded_next h
    · exact .inr (.inr (.inr (.inr (.inr (.inr (.inl ⟨rfl, hr, (Host.Outcome.next.inj h).symm⟩))))))
    · exact .inr (.inl rfl)
  | brgTick =>
    obtain ⟨hr, h⟩ | ⟨_, rfl⟩ := guarded_next h
    · obtain h | h | ⟨_, rfl⟩ := brgTick_next h
      · exact .inr (.inr (.inr (.inr (.inr (.inr (.inr ⟨rfl, hr, .inl h⟩))))))
      · exact .inr (.inr (.inr (.inr (.inr (.inr (.inr ⟨rfl, hr, .inr h⟩))))))
      · exact .inl ⟨_, rfl⟩
    · exact .inr (.inl rfl)

/-- Every next state of the machine: from the state with the choice used up, a fault recorded, nothing
changed, the effect of the instruction HOST fetched, or another agent's step. -/
theorem step_cases {s t : State} (h : step s = .next t) :
    s.fault = none ∧ (Faulted (useChoice s) t ∨ t = useChoice s ∨
      (s.turn = .host ∧ ∃ i, fetch s = .instr i ∧ Effect (useChoice s) t i) ∨
      (s.turn ≠ .host ∧ actorStep s.turn (useChoice s) = .next t)) := by
  obtain ⟨hf, h⟩ := step_next h
  refine ⟨hf, ?_⟩
  by_cases ht : s.turn = .host
  · rw [ht] at h
    obtain ⟨i, hi, h⟩ | ⟨f, _, rfl⟩ | ⟨_, rfl⟩ := hostStep_next h
    · exact (exec_next h).2.imp_right fun he => .inr (.inl ⟨ht, i, hi, he⟩)
    · exact .inl ⟨f, rfl⟩
    · exact .inr (.inl rfl)
  · exact .inr (.inr (.inr ⟨ht, h⟩))

/-! Elements (R66). -/

/-- Recording a fault leaves every other element as it was. -/
theorem Element.same_faulted (f : Fault) (s : State) {e : Element} (h : e ≠ .fault) :
    e.same s { s with fault := some f } := by
  cases e <;> first | rfl | exact absurd rfl h | exact fun _ => rfl

theorem Element.same_refl (s : State) (e : Element) : e.same s s := by
  cases e <;> first | rfl | exact fun _ => rfl

/-- Using up a choice touches no element. -/
theorem Element.same_useChoice {s t : State} {e : Element} :
    e.same (useChoice s) t ↔ e.same s t := by
  cases e <;> exact Iff.rfl

end Sys2Proof.Machine
end

