-- ==== Sys2Proof/Laws/Coherent.lean ====
section
/-! SUPPORT. The parts of a step that keep the coherence of the state whatever the step is: using up a
choice, recording a fault, recording an event, advancing the thread's counter; and what HOST fetches in
the handler. -/

namespace Sys2Proof.Machine

theorem Coherent.useChoice {s : State} (h : Coherent s) : Coherent (useChoice s) :=
  { h with }

theorem Coherent.fault {s : State} (h : Coherent s) (f : Option Fault) :
    Coherent { s with fault := f } :=
  { h with }

theorem Coherent.record {s : State} (h : Coherent s) (e : Event) : Coherent (record e s) :=
  { h with }

theorem Coherent.advance_thread {s : State} (h : Coherent s) (ha : s.irqActive = false) :
    Coherent (advance s) := by
  rw [Machine.advance_thread ha]
  exact { h with }

/-- Using up a choice and recording a fault keep it. -/
theorem Coherent.faulted {s t : State} (h : Coherent s) (hf : Faulted s t) : Coherent t := by
  obtain ⟨f, rfl⟩ := hf
  exact h.fault _

/-- The three words of HPROG (R204), as HOST fetches them. -/
theorem fetch_handlerProgram {s : State} {i : Instr} (ha : s.irqActive = true)
    (h : fetch s = .instr i) :
    (s.hpc = 0 ∧ i = .doneset) ∨ (s.hpc = 1 ∧ i = .fclr maskRxOnly) ∨ (s.hpc = 2 ∧ i = .iret) := by
  unfold fetch at h
  rw [if_pos ha] at h
  generalize s.hpc = n at h
  match n with
  | 0 => cases h; exact .inl ⟨rfl, rfl⟩
  | 1 => cases h; exact .inr (.inl ⟨rfl, rfl⟩)
  | 2 => cases h; exact .inr (.inr ⟨rfl, rfl⟩)
  | n + 3 => cases h

end Sys2Proof.Machine
end

