-- ==== Sys2Proof/Laws/Memory.lean ====
section
/-! SUPPORT. The laws of MEM: what a store leaves at its own address and at every other, and that every
operation keeps the canonical form. -/

namespace Sys2Proof.Machine

theorem Memory.read_erase_same (m : List Host.Cell) (a : Nat) :
    Memory.read (Memory.erase m a) a = Memory.unlisted := by
  induction m with
  | nil => rfl
  | cons c m ih =>
    obtain ⟨b, w⟩ := c
    by_cases h : a = b
    · simpa [Memory.erase, h] using h ▸ ih
    · simpa [Memory.erase, Memory.read, h] using ih

theorem Memory.read_erase_other (m : List Host.Cell) {a x : Nat} (hx : x ≠ a) :
    Memory.read (Memory.erase m a) x = Memory.read m x := by
  induction m with
  | nil => rfl
  | cons c m ih =>
    obtain ⟨b, w⟩ := c
    by_cases h : a = b
    · subst h
      simpa [Memory.erase, Memory.read, hx] using ih
    · simp [Memory.erase, Memory.read, h, ih]

theorem Memory.read_erase_id {m : List Host.Cell} {a : Nat}
    (h : Memory.erase m a = m) : Memory.read m a = Memory.unlisted :=
  h ▸ Memory.read_erase_same m a

theorem Memory.erase_erase (m : List Host.Cell) (a : Nat) :
    Memory.erase (Memory.erase m a) a = Memory.erase m a := by
  induction m with
  | nil => rfl
  | cons c m ih =>
    obtain ⟨b, w⟩ := c
    by_cases h : a = b <;> simp [Memory.erase, h, ih]
    simpa [h] using ih

theorem Memory.read_insert_other (m : List Host.Cell) {a x : Nat} (v : Byte) (hx : x ≠ a) :
    Memory.read (Memory.insert m a v) x = Memory.read m x := by
  induction m with
  | nil => simp [Memory.insert, Memory.read, hx]
  | cons c m ih =>
    obtain ⟨b, w⟩ := c
    by_cases h : a < b
    · simp [Memory.insert, Memory.read, h, hx]
    · simp [Memory.insert, Memory.read, h, ih]

theorem Memory.read_insert_same (m : List Host.Cell) (a : Nat) (v : Byte)
    (h : Memory.erase m a = m) : Memory.read (Memory.insert m a v) a = v := by
  induction m with
  | nil => simp [Memory.insert, Memory.read]
  | cons c m ih =>
    obtain ⟨b, w⟩ := c
    by_cases hab : a = b
    · have hl := congrArg List.length h
      have hle : ∀ m : List Host.Cell, (Memory.erase m a).length ≤ m.length := by
        intro m
        induction m with
        | nil => simp [Memory.erase]
        | cons c m ih =>
          obtain ⟨b, w⟩ := c
          by_cases h : a = b <;> simp [Memory.erase, h] <;> (try rw [← h]) <;> omega
      have := hle m
      simp [Memory.erase, hab] at hl
      rw [hab] at this
      omega
    · by_cases hlt : a < b
      · simp [Memory.insert, Memory.read, hlt]
      · have h' : Memory.erase m a = m := by simpa [Memory.erase, hab] using h
        simp [Memory.insert, Memory.read, hlt, hab, ih h']

/-- A read after a write to the same address gives the byte written. -/
@[simp] theorem Memory.read_write_same (m : List Host.Cell) (a : Nat) (v : Byte) :
    Memory.read (Memory.write m a v) a = v := by
  unfold Memory.write
  split
  · next h => rw [Memory.read_erase_same, h]
  · exact Memory.read_insert_same _ a v (Memory.erase_erase m a)

/-- A write leaves every other address alone. -/
theorem Memory.read_write_other (m : List Host.Cell) {a x : Nat} (v : Byte) (hx : x ≠ a) :
    Memory.read (Memory.write m a v) x = Memory.read m x := by
  unfold Memory.write
  split
  · exact Memory.read_erase_other m hx
  · rw [Memory.read_insert_other _ v hx, Memory.read_erase_other m hx]

theorem Memory.wfFrom_mono {m : List Host.Cell} {lo hi : Nat} (h : lo ≤ hi)
    (hm : Memory.wfFrom hi m = true) : Memory.wfFrom lo m = true := by
  cases m with
  | nil => rfl
  | cons c m =>
    obtain ⟨b, w⟩ := c
    simp only [Memory.wfFrom, Bool.and_eq_true, decide_eq_true_eq] at hm ⊢
    exact ⟨⟨⟨by omega, hm.1.1.2⟩, hm.1.2⟩, hm.2⟩

theorem Memory.wfFrom_erase {m : List Host.Cell} {lo : Nat} (a : Nat)
    (hm : Memory.wfFrom lo m = true) : Memory.wfFrom lo (Memory.erase m a) = true := by
  induction m generalizing lo with
  | nil => rfl
  | cons c m ih =>
    obtain ⟨b, w⟩ := c
    simp only [Memory.wfFrom, Bool.and_eq_true, decide_eq_true_eq] at hm
    by_cases h : a = b
    · simpa [Memory.erase, h] using h ▸ Memory.wfFrom_mono (by omega) (ih hm.2)
    · simp only [Memory.erase, h, if_false, Memory.wfFrom, Bool.and_eq_true, decide_eq_true_eq]
      exact ⟨hm.1, ih hm.2⟩

theorem Memory.wfFrom_insert {m : List Host.Cell} {lo a : Nat} {v : Byte} (hlo : lo ≤ a)
    (ha : a < Config.addrSpace) (hv : v ≠ Memory.unlisted) (hm : Memory.wfFrom lo m = true)
    (he : Memory.erase m a = m) : Memory.wfFrom lo (Memory.insert m a v) = true := by
  induction m generalizing lo with
  | nil => simp [Memory.insert, Memory.wfFrom, hlo, ha, hv]
  | cons c m ih =>
    obtain ⟨b, w⟩ := c
    have hab : a ≠ b := by
      intro h
      have hr := Memory.read_erase_id he
      simp only [Memory.wfFrom, Bool.and_eq_true, decide_eq_true_eq] at hm
      exact hm.1.2 (by simpa [Memory.read, h] using hr)
    have he' : Memory.erase m a = m := by simpa [Memory.erase, hab] using he
    simp only [Memory.wfFrom, Bool.and_eq_true, decide_eq_true_eq] at hm
    by_cases hlt : a < b
    · simp only [Memory.insert, hlt, if_true, Memory.wfFrom, Bool.and_eq_true, decide_eq_true_eq]
      exact ⟨⟨⟨hlo, ha⟩, hv⟩, ⟨⟨by omega, hm.1.1.2⟩, hm.1.2⟩, hm.2⟩
    · simp only [Memory.insert, hlt, if_false, Memory.wfFrom, Bool.and_eq_true, decide_eq_true_eq]
      exact ⟨hm.1, ih (by omega) hm.2 he'⟩

/-- A store at an address of MEM keeps the canonical form. -/
theorem Memory.wf_write {m : List Host.Cell} {a : Nat} (v : Byte) (ha : a < Config.addrSpace)
    (hm : Memory.wf m = true) : Memory.wf (Memory.write m a v) = true := by
  unfold Memory.write
  split
  · exact Memory.wfFrom_erase a hm
  · next hv =>
    exact Memory.wfFrom_insert (Nat.zero_le a) ha hv (Memory.wfFrom_erase a hm)
      (Memory.erase_erase m a)

/-- The memory of the reset state is in canonical form. -/
theorem Memory.wf_reset : Memory.wf State.reset.mem = true := rfl

/-- A store by an agent keeps the canonical form. -/
theorem storeByte_wf (g : MemAgent) (a : Addr) (v : Byte) (s : State)
    (h : Memory.wf s.mem = true) : Memory.wf (storeByte g a v s).mem = true :=
  Memory.wf_write v (by simpa using a.isLt) h

/-- The byte a store puts at its address. -/
@[simp] theorem storeByte_byteAt_same (g : MemAgent) (a : Addr) (v : Byte) (s : State) :
    (storeByte g a v s).byteAt a = v := Memory.read_write_same _ _ _

/-- A store leaves every other byte alone. -/
theorem storeByte_byteAt_other (g : MemAgent) {a x : Addr} (v : Byte) (s : State) (hx : x ≠ a) :
    (storeByte g a v s).byteAt x = s.byteAt x :=
  Memory.read_write_other _ _ fun h => hx (BitVec.eq_of_toNat_eq h)

end Sys2Proof.Machine
end

