-- ==== Sys2Proof/Laws/Operands.lean ====
section
/-! SUPPORT. The operand functions as arithmetic over the naturals. -/

namespace Sys2Proof.Machine

theorem divisorFits_iff {d : Nat} : divisorFits d = true ↔ 0 < d ∧ d ≤ 65535 := by
  simp [divisorFits]

theorem divisorFits_eq_false_iff {d : Nat} : divisorFits d = false ↔ d = 0 ∨ 65535 < d := by
  rw [← Bool.not_eq_true, divisorFits_iff]
  omega

theorem wellPlaced_iff {a : Addr} {n : Len} :
    wellPlaced a n = true ↔ a.toNat + n.toNat ≤ 4294967296 := by
  simp only [wellPlaced, decide_eq_true_eq]
  rfl

theorem wellPlaced_eq_false_iff {a : Addr} {n : Len} :
    wellPlaced a n = false ↔ 4294967296 < a.toNat + n.toNat := by
  rw [← Bool.not_eq_true, wellPlaced_iff, Nat.not_le]

theorem buffersOverlap_iff {ta : Addr} {tn : Len} {ra : Addr} {rn : Len} :
    buffersOverlap ta tn ra rn = true ↔
      0 < tn.toNat ∧ ta.toNat < ra.toNat + rn.toNat ∧ ra.toNat < ta.toNat + tn.toNat := by
  simp only [buffersOverlap, Bool.and_eq_true, decide_eq_true_eq, and_assoc]
  rfl

theorem buffersOverlap_eq_false_iff {ta : Addr} {tn : Len} {ra : Addr} {rn : Len} :
    buffersOverlap ta tn ra rn = false ↔
      tn.toNat = 0 ∨ ra.toNat + rn.toNat ≤ ta.toNat ∨ ta.toNat + tn.toNat ≤ ra.toNat := by
  rw [← Bool.not_eq_true, buffersOverlap_iff]
  omega

end Sys2Proof.Machine
end

