-- ==== Sys2Proof/Laws/PerInstr.lean ====
section
/-! SUPPORT. The family OpcodeTable: the word of every instruction, masked by its row's mask, is its
row's match value (30_encoding.md R106); one lemma per constructor. -/

namespace Sys2Proof.Laws.OpcodeTable

/-- The word the encoder gives an instruction matches the instruction's row of the opcode table. -/
def Statement (i : Instr) : Prop := encode i &&& i.maskWord = i.matchWord

/-- Masking two fields put together masks each. -/
theorem append_and {n m : Nat} (a b : BitVec n) (c d : BitVec m) :
    (a ++ c) &&& (b ++ d) = (a &&& b) ++ (c &&& d) := by
  ext i h
  simp [BitVec.getElem_append]

/-- An operand of `m` bits under a format's `n` must-be-zero bits. -/
theorem masked {n m : Nat} (op : Opcode) (s : BitVec m) :
    (op ++ (0#n ++ s)) &&& (0xFF#8 ++ (BitVec.allOnes n ++ 0#m)) = op ++ 0#(n + m) := by
  have h : (0xFF#8 : Opcode) = BitVec.allOnes 8 := rfl
  rw [h, append_and, append_and, BitVec.and_allOnes]
  simp

/-- An operand of 32 bits. -/
theorem maskedWhole (op : Opcode) (s : BitVec 32) :
    (op ++ s) &&& (0xFF#8 ++ 0#32) = op ++ 0#32 := by
  have h : (0xFF#8 : Opcode) = BitVec.allOnes 8 := rfl
  rw [h, append_and, BitVec.and_allOnes]
  simp

theorem bue (s : BitVec 8) : Statement (.bue s) := masked (n := 24) _ s

theorem clken : Statement .clken := rfl

theorem pincfg : Statement .pincfg := rfl

theorem dmawire : Statement .dmawire := rfl

theorem irqen : Statement .irqen := rfl

theorem uedis : Statement .uedis := rfl

theorem clkrd : Statement .clkrd := rfl

theorem brgld (rate : Rate) : Statement (.brgld rate) := maskedWhole _ rate

theorem ueen : Statement .ueen := rfl

theorem fclr (m : BitVec 2) : Statement (.fclr m) := masked (n := 30) _ m

theorem lenldTx (len : Len) : Statement (.lenldTx len) := masked (n := 16) _ len

theorem maldTx (addr : Addr) : Statement (.maldTx addr) := maskedWhole _ addr

theorem lenldRx (len : Len) : Statement (.lenldRx len) := masked (n := 16) _ len

theorem maldRx (addr : Addr) : Statement (.maldRx addr) := maskedWhole _ addr

theorem doneclr : Statement .doneclr := rfl

theorem drqen : Statement .drqen := rfl

theorem tcien : Statement .tcien := rfl

theorem chenRx : Statement .chenRx := rfl

theorem chenTx : Statement .chenTx := rfl

theorem wdone (h : Bool) : Statement (.wdone h) := by
  cases h <;> rfl

theorem drqdis : Statement .drqdis := rfl

theorem doneset : Statement .doneset := rfl

theorem iret : Statement .iret := rfl

theorem put (addr : Addr) : Statement (.put addr) := maskedWhole _ addr

theorem wtxe : Statement .wtxe := rfl

theorem wrxne : Statement .wrxne := rfl

theorem get (addr : Addr) : Statement (.get addr) := maskedWhole _ addr

end Sys2Proof.Laws.OpcodeTable
end

