-- ==== Sys2Proof/Laws/State.lean ====
section
/-! SUPPORT. The fields of a state after each named update: one lemma per field per update, true by
rfl, so that no proof unfolds a record update. -/

namespace Sys2Proof.Machine

/-! `advance`. -/

@[simp] theorem advance_clkOn (s : State) : (advance s).clkOn = s.clkOn := rfl
@[simp] theorem advance_pinTxl (s : State) : (advance s).pinTxl = s.pinTxl := rfl
@[simp] theorem advance_pinRxl (s : State) : (advance s).pinRxl = s.pinRxl := rfl
@[simp] theorem advance_wired (s : State) : (advance s).wired = s.wired := rfl
@[simp] theorem advance_irqEn (s : State) : (advance s).irqEn = s.irqEn := rfl
@[simp] theorem advance_irqPrio (s : State) : (advance s).irqPrio = s.irqPrio := rfl
@[simp] theorem advance_clkF (s : State) : (advance s).clkF = s.clkF := rfl
@[simp] theorem advance_brgDiv (s : State) : (advance s).brgDiv = s.brgDiv := rfl
@[simp] theorem advance_brgRate (s : State) : (advance s).brgRate = s.brgRate := rfl
@[simp] theorem advance_brgCnt (s : State) : (advance s).brgCnt = s.brgCnt := rfl
@[simp] theorem advance_baudTick (s : State) : (advance s).baudTick = s.baudTick := rfl
@[simp] theorem advance_ue (s : State) : (advance s).ue = s.ue := rfl
@[simp] theorem advance_tdr (s : State) : (advance s).tdr = s.tdr := rfl
@[simp] theorem advance_txe (s : State) : (advance s).txe = s.txe := rfl
@[simp] theorem advance_tsr (s : State) : (advance s).tsr = s.tsr := rfl
@[simp] theorem advance_busy (s : State) : (advance s).busy = s.busy := rfl
@[simp] theorem advance_fdiv (s : State) : (advance s).fdiv = s.fdiv := rfl
@[simp] theorem advance_rdr (s : State) : (advance s).rdr = s.rdr := rfl
@[simp] theorem advance_rxne (s : State) : (advance s).rxne = s.rxne := rfl
@[simp] theorem advance_dmat (s : State) : (advance s).dmat = s.dmat := rfl
@[simp] theorem advance_dmar (s : State) : (advance s).dmar = s.dmar := rfl
@[simp] theorem advance_tx (s : State) : (advance s).tx = s.tx := rfl
@[simp] theorem advance_rx (s : State) : (advance s).rx = s.rx := rfl
@[simp] theorem advance_rxTcie (s : State) : (advance s).rxTcie = s.rxTcie := rfl
@[simp] theorem advance_done (s : State) : (advance s).done = s.done := rfl
@[simp] theorem advance_irqActive (s : State) : (advance s).irqActive = s.irqActive := rfl
@[simp] theorem advance_pc (s : State) :
    (advance s).pc = if s.irqActive then s.pc else s.pc + 1 := rfl
@[simp] theorem advance_hpc (s : State) :
    (advance s).hpc = if s.irqActive then s.hpc + 1 else s.hpc := rfl
@[simp] theorem advance_fault (s : State) : (advance s).fault = s.fault := rfl
@[simp] theorem advance_frames (s : State) : (advance s).frames = s.frames := rfl
@[simp] theorem advance_hist (s : State) : (advance s).hist = s.hist := rfl
@[simp] theorem advance_mem (s : State) : (advance s).mem = s.mem := rfl
@[simp] theorem advance_launch (s : State) : (advance s).launch = s.launch := rfl
@[simp] theorem advance_inputs (s : State) : (advance s).inputs = s.inputs := rfl

/-! `record`. -/

@[simp] theorem record_clkOn (e : Event) (s : State) : (record e s).clkOn = s.clkOn := rfl
@[simp] theorem record_pinTxl (e : Event) (s : State) : (record e s).pinTxl = s.pinTxl := rfl
@[simp] theorem record_pinRxl (e : Event) (s : State) : (record e s).pinRxl = s.pinRxl := rfl
@[simp] theorem record_wired (e : Event) (s : State) : (record e s).wired = s.wired := rfl
@[simp] theorem record_irqEn (e : Event) (s : State) : (record e s).irqEn = s.irqEn := rfl
@[simp] theorem record_irqPrio (e : Event) (s : State) : (record e s).irqPrio = s.irqPrio := rfl
@[simp] theorem record_clkF (e : Event) (s : State) : (record e s).clkF = s.clkF := rfl
@[simp] theorem record_brgDiv (e : Event) (s : State) : (record e s).brgDiv = s.brgDiv := rfl
@[simp] theorem record_brgRate (e : Event) (s : State) : (record e s).brgRate = s.brgRate := rfl
@[simp] theorem record_brgCnt (e : Event) (s : State) : (record e s).brgCnt = s.brgCnt := rfl
@[simp] theorem record_baudTick (e : Event) (s : State) : (record e s).baudTick = s.baudTick := rfl
@[simp] theorem record_ue (e : Event) (s : State) : (record e s).ue = s.ue := rfl
@[simp] theorem record_tdr (e : Event) (s : State) : (record e s).tdr = s.tdr := rfl
@[simp] theorem record_txe (e : Event) (s : State) : (record e s).txe = s.txe := rfl
@[simp] theorem record_tsr (e : Event) (s : State) : (record e s).tsr = s.tsr := rfl
@[simp] theorem record_busy (e : Event) (s : State) : (record e s).busy = s.busy := rfl
@[simp] theorem record_fdiv (e : Event) (s : State) : (record e s).fdiv = s.fdiv := rfl
@[simp] theorem record_rdr (e : Event) (s : State) : (record e s).rdr = s.rdr := rfl
@[simp] theorem record_rxne (e : Event) (s : State) : (record e s).rxne = s.rxne := rfl
@[simp] theorem record_dmat (e : Event) (s : State) : (record e s).dmat = s.dmat := rfl
@[simp] theorem record_dmar (e : Event) (s : State) : (record e s).dmar = s.dmar := rfl
@[simp] theorem record_tx (e : Event) (s : State) : (record e s).tx = s.tx := rfl
@[simp] theorem record_rx (e : Event) (s : State) : (record e s).rx = s.rx := rfl
@[simp] theorem record_rxTcie (e : Event) (s : State) : (record e s).rxTcie = s.rxTcie := rfl
@[simp] theorem record_done (e : Event) (s : State) : (record e s).done = s.done := rfl
@[simp] theorem record_irqActive (e : Event) (s : State) :
    (record e s).irqActive = s.irqActive := rfl
@[simp] theorem record_pc (e : Event) (s : State) : (record e s).pc = s.pc := rfl
@[simp] theorem record_hpc (e : Event) (s : State) : (record e s).hpc = s.hpc := rfl
@[simp] theorem record_fault (e : Event) (s : State) : (record e s).fault = s.fault := rfl
@[simp] theorem record_frames (e : Event) (s : State) : (record e s).frames = s.frames := rfl
@[simp] theorem record_hist (e : Event) (s : State) : (record e s).hist = s.hist ++ [e] := rfl
@[simp] theorem record_mem (e : Event) (s : State) : (record e s).mem = s.mem := rfl
@[simp] theorem record_launch (e : Event) (s : State) : (record e s).launch = s.launch := rfl
@[simp] theorem record_inputs (e : Event) (s : State) : (record e s).inputs = s.inputs := rfl

/-! `storeByte`. -/

@[simp] theorem storeByte_clkOn (g : MemAgent) (a : Addr) (v : Byte) (s : State) :
    (storeByte g a v s).clkOn = s.clkOn := rfl
@[simp] theorem storeByte_pinTxl (g : MemAgent) (a : Addr) (v : Byte) (s : State) :
    (storeByte g a v s).pinTxl = s.pinTxl := rfl
@[simp] theorem storeByte_pinRxl (g : MemAgent) (a : Addr) (v : Byte) (s : State) :
    (storeByte g a v s).pinRxl = s.pinRxl := rfl
@[simp] theorem storeByte_wired (g : MemAgent) (a : Addr) (v : Byte) (s : State) :
    (storeByte g a v s).wired = s.wired := rfl
@[simp] theorem storeByte_irqEn (g : MemAgent) (a : Addr) (v : Byte) (s : State) :
    (storeByte g a v s).irqEn = s.irqEn := rfl
@[simp] theorem storeByte_irqPrio (g : MemAgent) (a : Addr) (v : Byte) (s : State) :
    (storeByte g a v s).irqPrio = s.irqPrio := rfl
@[simp] theorem storeByte_clkF (g : MemAgent) (a : Addr) (v : Byte) (s : State) :
    (storeByte g a v s).clkF = s.clkF := rfl
@[simp] theorem storeByte_brgDiv (g : MemAgent) (a : Addr) (v : Byte) (s : State) :
    (storeByte g a v s).brgDiv = s.brgDiv := rfl
@[simp] theorem storeByte_brgRate (g : MemAgent) (a : Addr) (v : Byte) (s : State) :
    (storeByte g a v s).brgRate = s.brgRate := rfl
@[simp] theorem storeByte_brgCnt (g : MemAgent) (a : Addr) (v : Byte) (s : State) :
    (storeByte g a v s).brgCnt = s.brgCnt := rfl
@[simp] theorem storeByte_baudTick (g : MemAgent) (a : Addr) (v : Byte) (s : State) :
    (storeByte g a v s).baudTick = s.baudTick := rfl
@[simp] theorem storeByte_ue (g : MemAgent) (a : Addr) (v : Byte) (s : State) :
    (storeByte g a v s).ue = s.ue := rfl
@[simp] theorem storeByte_tdr (g : MemAgent) (a : Addr) (v : Byte) (s : State) :
    (storeByte g a v s).tdr = s.tdr := rfl
@[simp] theorem storeByte_txe (g : MemAgent) (a : Addr) (v : Byte) (s : State) :
    (storeByte g a v s).txe = s.txe := rfl
@[simp] theorem storeByte_tsr (g : MemAgent) (a : Addr) (v : Byte) (s : State) :
    (storeByte g a v s).tsr = s.tsr := rfl
@[simp] theorem storeByte_busy (g : MemAgent) (a : Addr) (v : Byte) (s : State) :
    (storeByte g a v s).busy = s.busy := rfl
@[simp] theorem storeByte_fdiv (g : MemAgent) (a : Addr) (v : Byte) (s : State) :
    (storeByte g a v s).fdiv = s.fdiv := rfl
@[simp] theorem storeByte_rdr (g : MemAgent) (a : Addr) (v : Byte) (s : State) :
    (storeByte g a v s).rdr = s.rdr := rfl
@[simp] theorem storeByte_rxne (g : MemAgent) (a : Addr) (v : Byte) (s : State) :
    (storeByte g a v s).rxne = s.rxne := rfl
@[simp] theorem storeByte_dmat (g : MemAgent) (a : Addr) (v : Byte) (s : State) :
    (storeByte g a v s).dmat = s.dmat := rfl
@[simp] theorem storeByte_dmar (g : MemAgent) (a : Addr) (v : Byte) (s : State) :
    (storeByte g a v s).dmar = s.dmar := rfl
@[simp] theorem storeByte_tx (g : MemAgent) (a : Addr) (v : Byte) (s : State) :
    (storeByte g a v s).tx = s.tx := rfl
@[simp] theorem storeByte_rx (g : MemAgent) (a : Addr) (v : Byte) (s : State) :
    (storeByte g a v s).rx = s.rx := rfl
@[simp] theorem storeByte_rxTcie (g : MemAgent) (a : Addr) (v : Byte) (s : State) :
    (storeByte g a v s).rxTcie = s.rxTcie := rfl
@[simp] theorem storeByte_done (g : MemAgent) (a : Addr) (v : Byte) (s : State) :
    (storeByte g a v s).done = s.done := rfl
@[simp] theorem storeByte_irqActive (g : MemAgent) (a : Addr) (v : Byte) (s : State) :
    (storeByte g a v s).irqActive = s.irqActive := rfl
@[simp] theorem storeByte_pc (g : MemAgent) (a : Addr) (v : Byte) (s : State) :
    (storeByte g a v s).pc = s.pc := rfl
@[simp] theorem storeByte_hpc (g : MemAgent) (a : Addr) (v : Byte) (s : State) :
    (storeByte g a v s).hpc = s.hpc := rfl
@[simp] theorem storeByte_fault (g : MemAgent) (a : Addr) (v : Byte) (s : State) :
    (storeByte g a v s).fault = s.fault := rfl
@[simp] theorem storeByte_frames (g : MemAgent) (a : Addr) (v : Byte) (s : State) :
    (storeByte g a v s).frames = s.frames := rfl
@[simp] theorem storeByte_hist (g : MemAgent) (a : Addr) (v : Byte) (s : State) :
    (storeByte g a v s).hist = s.hist ++ [.memW g a v] := rfl
@[simp] theorem storeByte_mem (g : MemAgent) (a : Addr) (v : Byte) (s : State) :
    (storeByte g a v s).mem = Memory.write s.mem a.toNat v := rfl
@[simp] theorem storeByte_launch (g : MemAgent) (a : Addr) (v : Byte) (s : State) :
    (storeByte g a v s).launch = s.launch := rfl
@[simp] theorem storeByte_inputs (g : MemAgent) (a : Addr) (v : Byte) (s : State) :
    (storeByte g a v s).inputs = s.inputs := rfl

/-! `noteRead`. -/

@[simp] theorem noteRead_clkOn (g : MemAgent) (a : Addr) (s : State) :
    (noteRead g a s).clkOn = s.clkOn := rfl
@[simp] theorem noteRead_pinTxl (g : MemAgent) (a : Addr) (s : State) :
    (noteRead g a s).pinTxl = s.pinTxl := rfl
@[simp] theorem noteRead_pinRxl (g : MemAgent) (a : Addr) (s : State) :
    (noteRead g a s).pinRxl = s.pinRxl := rfl
@[simp] theorem noteRead_wired (g : MemAgent) (a : Addr) (s : State) :
    (noteRead g a s).wired = s.wired := rfl
@[simp] theorem noteRead_irqEn (g : MemAgent) (a : Addr) (s : State) :
    (noteRead g a s).irqEn = s.irqEn := rfl
@[simp] theorem noteRead_irqPrio (g : MemAgent) (a : Addr) (s : State) :
    (noteRead g a s).irqPrio = s.irqPrio := rfl
@[simp] theorem noteRead_clkF (g : MemAgent) (a : Addr) (s : State) :
    (noteRead g a s).clkF = s.clkF := rfl
@[simp] theorem noteRead_brgDiv (g : MemAgent) (a : Addr) (s : State) :
    (noteRead g a s).brgDiv = s.brgDiv := rfl
@[simp] theorem noteRead_brgRate (g : MemAgent) (a : Addr) (s : State) :
    (noteRead g a s).brgRate = s.brgRate := rfl
@[simp] theorem noteRead_brgCnt (g : MemAgent) (a : Addr) (s : State) :
    (noteRead g a s).brgCnt = s.brgCnt := rfl
@[simp] theorem noteRead_baudTick (g : MemAgent) (a : Addr) (s : State) :
    (noteRead g a s).baudTick = s.baudTick := rfl
@[simp] theorem noteRead_ue (g : MemAgent) (a : Addr) (s : State) :
    (noteRead g a s).ue = s.ue := rfl
@[simp] theorem noteRead_tdr (g : MemAgent) (a : Addr) (s : State) :
    (noteRead g a s).tdr = s.tdr := rfl
@[simp] theorem noteRead_txe (g : MemAgent) (a : Addr) (s : State) :
    (noteRead g a s).txe = s.txe := rfl
@[simp] theorem noteRead_tsr (g : MemAgent) (a : Addr) (s : State) :
    (noteRead g a s).tsr = s.tsr := rfl
@[simp] theorem noteRead_busy (g : MemAgent) (a : Addr) (s : State) :
    (noteRead g a s).busy = s.busy := rfl
@[simp] theorem noteRead_fdiv (g : MemAgent) (a : Addr) (s : State) :
    (noteRead g a s).fdiv = s.fdiv := rfl
@[simp] theorem noteRead_rdr (g : MemAgent) (a : Addr) (s : State) :
    (noteRead g a s).rdr = s.rdr := rfl
@[simp] theorem noteRead_rxne (g : MemAgent) (a : Addr) (s : State) :
    (noteRead g a s).rxne = s.rxne := rfl
@[simp] theorem noteRead_dmat (g : MemAgent) (a : Addr) (s : State) :
    (noteRead g a s).dmat = s.dmat := rfl
@[simp] theorem noteRead_dmar (g : MemAgent) (a : Addr) (s : State) :
    (noteRead g a s).dmar = s.dmar := rfl
@[simp] theorem noteRead_tx (g : MemAgent) (a : Addr) (s : State) :
    (noteRead g a s).tx = s.tx := rfl
@[simp] theorem noteRead_rx (g : MemAgent) (a : Addr) (s : State) :
    (noteRead g a s).rx = s.rx := rfl
@[simp] theorem noteRead_rxTcie (g : MemAgent) (a : Addr) (s : State) :
    (noteRead g a s).rxTcie = s.rxTcie := rfl
@[simp] theorem noteRead_done (g : MemAgent) (a : Addr) (s : State) :
    (noteRead g a s).done = s.done := rfl
@[simp] theorem noteRead_irqActive (g : MemAgent) (a : Addr) (s : State) :
    (noteRead g a s).irqActive = s.irqActive := rfl
@[simp] theorem noteRead_pc (g : MemAgent) (a : Addr) (s : State) :
    (noteRead g a s).pc = s.pc := rfl
@[simp] theorem noteRead_hpc (g : MemAgent) (a : Addr) (s : State) :
    (noteRead g a s).hpc = s.hpc := rfl
@[simp] theorem noteRead_fault (g : MemAgent) (a : Addr) (s : State) :
    (noteRead g a s).fault = s.fault := rfl
@[simp] theorem noteRead_frames (g : MemAgent) (a : Addr) (s : State) :
    (noteRead g a s).frames = s.frames := rfl
@[simp] theorem noteRead_hist (g : MemAgent) (a : Addr) (s : State) :
    (noteRead g a s).hist = s.hist ++ [.memR g a (s.byteAt a)] := rfl
@[simp] theorem noteRead_mem (g : MemAgent) (a : Addr) (s : State) :
    (noteRead g a s).mem = s.mem := rfl
@[simp] theorem noteRead_launch (g : MemAgent) (a : Addr) (s : State) :
    (noteRead g a s).launch = s.launch := rfl
@[simp] theorem noteRead_inputs (g : MemAgent) (a : Addr) (s : State) :
    (noteRead g a s).inputs = s.inputs := rfl

/-! `writeDataRegister`. -/

@[simp] theorem writeDataRegister_clkOn (b : Byte) (s : State) :
    (writeDataRegister b s).clkOn = s.clkOn := rfl
@[simp] theorem writeDataRegister_pinTxl (b : Byte) (s : State) :
    (writeDataRegister b s).pinTxl = s.pinTxl := rfl
@[simp] theorem writeDataRegister_pinRxl (b : Byte) (s : State) :
    (writeDataRegister b s).pinRxl = s.pinRxl := rfl
@[simp] theorem writeDataRegister_wired (b : Byte) (s : State) :
    (writeDataRegister b s).wired = s.wired := rfl
@[simp] theorem writeDataRegister_irqEn (b : Byte) (s : State) :
    (writeDataRegister b s).irqEn = s.irqEn := rfl
@[simp] theorem writeDataRegister_irqPrio (b : Byte) (s : State) :
    (writeDataRegister b s).irqPrio = s.irqPrio := rfl
@[simp] theorem writeDataRegister_clkF (b : Byte) (s : State) :
    (writeDataRegister b s).clkF = s.clkF := rfl
@[simp] theorem writeDataRegister_brgDiv (b : Byte) (s : State) :
    (writeDataRegister b s).brgDiv = s.brgDiv := rfl
@[simp] theorem writeDataRegister_brgRate (b : Byte) (s : State) :
    (writeDataRegister b s).brgRate = s.brgRate := rfl
@[simp] theorem writeDataRegister_brgCnt (b : Byte) (s : State) :
    (writeDataRegister b s).brgCnt = s.brgCnt := rfl
@[simp] theorem writeDataRegister_baudTick (b : Byte) (s : State) :
    (writeDataRegister b s).baudTick = s.baudTick := rfl
@[simp] theorem writeDataRegister_ue (b : Byte) (s : State) :
    (writeDataRegister b s).ue = s.ue := rfl
@[simp] theorem writeDataRegister_tdr (b : Byte) (s : State) :
    (writeDataRegister b s).tdr = some b := rfl
@[simp] theorem writeDataRegister_txe (b : Byte) (s : State) :
    (writeDataRegister b s).txe = false := rfl
@[simp] theorem writeDataRegister_tsr (b : Byte) (s : State) :
    (writeDataRegister b s).tsr = s.tsr := rfl
@[simp] theorem writeDataRegister_busy (b : Byte) (s : State) :
    (writeDataRegister b s).busy = s.busy := rfl
@[simp] theorem writeDataRegister_fdiv (b : Byte) (s : State) :
    (writeDataRegister b s).fdiv = s.fdiv := rfl
@[simp] theorem writeDataRegister_rdr (b : Byte) (s : State) :
    (writeDataRegister b s).rdr = s.rdr := rfl
@[simp] theorem writeDataRegister_rxne (b : Byte) (s : State) :
    (writeDataRegister b s).rxne = s.rxne := rfl
@[simp] theorem writeDataRegister_dmat (b : Byte) (s : State) :
    (writeDataRegister b s).dmat = s.dmat := rfl
@[simp] theorem writeDataRegister_dmar (b : Byte) (s : State) :
    (writeDataRegister b s).dmar = s.dmar := rfl
@[simp] theorem writeDataRegister_tx (b : Byte) (s : State) :
    (writeDataRegister b s).tx = s.tx := rfl
@[simp] theorem writeDataRegister_rx (b : Byte) (s : State) :
    (writeDataRegister b s).rx = s.rx := rfl
@[simp] theorem writeDataRegister_rxTcie (b : Byte) (s : State) :
    (writeDataRegister b s).rxTcie = s.rxTcie := rfl
@[simp] theorem writeDataRegister_done (b : Byte) (s : State) :
    (writeDataRegister b s).done = s.done := rfl
@[simp] theorem writeDataRegister_irqActive (b : Byte) (s : State) :
    (writeDataRegister b s).irqActive = s.irqActive := rfl
@[simp] theorem writeDataRegister_pc (b : Byte) (s : State) :
    (writeDataRegister b s).pc = s.pc := rfl
@[simp] theorem writeDataRegister_hpc (b : Byte) (s : State) :
    (writeDataRegister b s).hpc = s.hpc := rfl
@[simp] theorem writeDataRegister_fault (b : Byte) (s : State) :
    (writeDataRegister b s).fault = s.fault := rfl
@[simp] theorem writeDataRegister_frames (b : Byte) (s : State) :
    (writeDataRegister b s).frames = s.frames := rfl
@[simp] theorem writeDataRegister_hist (b : Byte) (s : State) :
    (writeDataRegister b s).hist = s.hist := rfl
@[simp] theorem writeDataRegister_mem (b : Byte) (s : State) :
    (writeDataRegister b s).mem = s.mem := rfl
@[simp] theorem writeDataRegister_launch (b : Byte) (s : State) :
    (writeDataRegister b s).launch = s.launch := rfl
@[simp] theorem writeDataRegister_inputs (b : Byte) (s : State) :
    (writeDataRegister b s).inputs = s.inputs := rfl

/-! `afterDataRead`. -/

@[simp] theorem afterDataRead_clkOn (s : State) : (afterDataRead s).clkOn = s.clkOn := rfl
@[simp] theorem afterDataRead_pinTxl (s : State) : (afterDataRead s).pinTxl = s.pinTxl := rfl
@[simp] theorem afterDataRead_pinRxl (s : State) : (afterDataRead s).pinRxl = s.pinRxl := rfl
@[simp] theorem afterDataRead_wired (s : State) : (afterDataRead s).wired = s.wired := rfl
@[simp] theorem afterDataRead_irqEn (s : State) : (afterDataRead s).irqEn = s.irqEn := rfl
@[simp] theorem afterDataRead_irqPrio (s : State) : (afterDataRead s).irqPrio = s.irqPrio := rfl
@[simp] theorem afterDataRead_clkF (s : State) : (afterDataRead s).clkF = s.clkF := rfl
@[simp] theorem afterDataRead_brgDiv (s : State) : (afterDataRead s).brgDiv = s.brgDiv := rfl
@[simp] theorem afterDataRead_brgRate (s : State) : (afterDataRead s).brgRate = s.brgRate := rfl
@[simp] theorem afterDataRead_brgCnt (s : State) : (afterDataRead s).brgCnt = s.brgCnt := rfl
@[simp] theorem afterDataRead_baudTick (s : State) : (afterDataRead s).baudTick = s.baudTick := rfl
@[simp] theorem afterDataRead_ue (s : State) : (afterDataRead s).ue = s.ue := rfl
@[simp] theorem afterDataRead_tdr (s : State) : (afterDataRead s).tdr = s.tdr := rfl
@[simp] theorem afterDataRead_txe (s : State) : (afterDataRead s).txe = s.txe := rfl
@[simp] theorem afterDataRead_tsr (s : State) : (afterDataRead s).tsr = s.tsr := rfl
@[simp] theorem afterDataRead_busy (s : State) : (afterDataRead s).busy = s.busy := rfl
@[simp] theorem afterDataRead_fdiv (s : State) : (afterDataRead s).fdiv = s.fdiv := rfl
@[simp] theorem afterDataRead_rdr (s : State) : (afterDataRead s).rdr = s.rdr := rfl
@[simp] theorem afterDataRead_rxne (s : State) : (afterDataRead s).rxne = false := rfl
@[simp] theorem afterDataRead_dmat (s : State) : (afterDataRead s).dmat = s.dmat := rfl
@[simp] theorem afterDataRead_dmar (s : State) : (afterDataRead s).dmar = s.dmar := rfl
@[simp] theorem afterDataRead_tx (s : State) : (afterDataRead s).tx = s.tx := rfl
@[simp] theorem afterDataRead_rx (s : State) : (afterDataRead s).rx = s.rx := rfl
@[simp] theorem afterDataRead_rxTcie (s : State) : (afterDataRead s).rxTcie = s.rxTcie := rfl
@[simp] theorem afterDataRead_done (s : State) : (afterDataRead s).done = s.done := rfl
@[simp] theorem afterDataRead_irqActive (s : State) :
    (afterDataRead s).irqActive = s.irqActive := rfl
@[simp] theorem afterDataRead_pc (s : State) : (afterDataRead s).pc = s.pc := rfl
@[simp] theorem afterDataRead_hpc (s : State) : (afterDataRead s).hpc = s.hpc := rfl
@[simp] theorem afterDataRead_fault (s : State) : (afterDataRead s).fault = s.fault := rfl
@[simp] theorem afterDataRead_frames (s : State) : (afterDataRead s).frames = s.frames := rfl
@[simp] theorem afterDataRead_hist (s : State) : (afterDataRead s).hist = s.hist := rfl
@[simp] theorem afterDataRead_mem (s : State) : (afterDataRead s).mem = s.mem := rfl
@[simp] theorem afterDataRead_launch (s : State) : (afterDataRead s).launch = s.launch := rfl
@[simp] theorem afterDataRead_inputs (s : State) : (afterDataRead s).inputs = s.inputs := rfl

/-! `takeInterrupt`. -/

@[simp] theorem takeInterrupt_clkOn (s : State) : (takeInterrupt s).clkOn = s.clkOn := rfl
@[simp] theorem takeInterrupt_pinTxl (s : State) : (takeInterrupt s).pinTxl = s.pinTxl := rfl
@[simp] theorem takeInterrupt_pinRxl (s : State) : (takeInterrupt s).pinRxl = s.pinRxl := rfl
@[simp] theorem takeInterrupt_wired (s : State) : (takeInterrupt s).wired = s.wired := rfl
@[simp] theorem takeInterrupt_irqEn (s : State) : (takeInterrupt s).irqEn = s.irqEn := rfl
@[simp] theorem takeInterrupt_irqPrio (s : State) : (takeInterrupt s).irqPrio = s.irqPrio := rfl
@[simp] theorem takeInterrupt_clkF (s : State) : (takeInterrupt s).clkF = s.clkF := rfl
@[simp] theorem takeInterrupt_brgDiv (s : State) : (takeInterrupt s).brgDiv = s.brgDiv := rfl
@[simp] theorem takeInterrupt_brgRate (s : State) : (takeInterrupt s).brgRate = s.brgRate := rfl
@[simp] theorem takeInterrupt_brgCnt (s : State) : (takeInterrupt s).brgCnt = s.brgCnt := rfl
@[simp] theorem takeInterrupt_baudTick (s : State) : (takeInterrupt s).baudTick = s.baudTick := rfl
@[simp] theorem takeInterrupt_ue (s : State) : (takeInterrupt s).ue = s.ue := rfl
@[simp] theorem takeInterrupt_tdr (s : State) : (takeInterrupt s).tdr = s.tdr := rfl
@[simp] theorem takeInterrupt_txe (s : State) : (takeInterrupt s).txe = s.txe := rfl
@[simp] theorem takeInterrupt_tsr (s : State) : (takeInterrupt s).tsr = s.tsr := rfl
@[simp] theorem takeInterrupt_busy (s : State) : (takeInterrupt s).busy = s.busy := rfl
@[simp] theorem takeInterrupt_fdiv (s : State) : (takeInterrupt s).fdiv = s.fdiv := rfl
@[simp] theorem takeInterrupt_rdr (s : State) : (takeInterrupt s).rdr = s.rdr := rfl
@[simp] theorem takeInterrupt_rxne (s : State) : (takeInterrupt s).rxne = s.rxne := rfl
@[simp] theorem takeInterrupt_dmat (s : State) : (takeInterrupt s).dmat = s.dmat := rfl
@[simp] theorem takeInterrupt_dmar (s : State) : (takeInterrupt s).dmar = s.dmar := rfl
@[simp] theorem takeInterrupt_tx (s : State) : (takeInterrupt s).tx = s.tx := rfl
@[simp] theorem takeInterrupt_rx (s : State) : (takeInterrupt s).rx = s.rx := rfl
@[simp] theorem takeInterrupt_rxTcie (s : State) : (takeInterrupt s).rxTcie = s.rxTcie := rfl
@[simp] theorem takeInterrupt_done (s : State) : (takeInterrupt s).done = s.done := rfl
@[simp] theorem takeInterrupt_irqActive (s : State) : (takeInterrupt s).irqActive = true := rfl
@[simp] theorem takeInterrupt_pc (s : State) : (takeInterrupt s).pc = s.pc := rfl
@[simp] theorem takeInterrupt_hpc (s : State) : (takeInterrupt s).hpc = 0 := rfl
@[simp] theorem takeInterrupt_fault (s : State) : (takeInterrupt s).fault = s.fault := rfl
@[simp] theorem takeInterrupt_frames (s : State) : (takeInterrupt s).frames = s.frames := rfl
@[simp] theorem takeInterrupt_hist (s : State) :
    (takeInterrupt s).hist = s.hist ++ [.irqEntry] := rfl
@[simp] theorem takeInterrupt_mem (s : State) : (takeInterrupt s).mem = s.mem := rfl
@[simp] theorem takeInterrupt_launch (s : State) : (takeInterrupt s).launch = s.launch := rfl
@[simp] theorem takeInterrupt_inputs (s : State) : (takeInterrupt s).inputs = s.inputs := rfl

/-! `returnFromInterrupt`. -/

@[simp] theorem returnFromInterrupt_clkOn (s : State) :
    (returnFromInterrupt s).clkOn = s.clkOn := rfl
@[simp] theorem returnFromInterrupt_pinTxl (s : State) :
    (returnFromInterrupt s).pinTxl = s.pinTxl := rfl
@[simp] theorem returnFromInterrupt_pinRxl (s : State) :
    (returnFromInterrupt s).pinRxl = s.pinRxl := rfl
@[simp] theorem returnFromInterrupt_wired (s : State) :
    (returnFromInterrupt s).wired = s.wired := rfl
@[simp] theorem returnFromInterrupt_irqEn (s : State) :
    (returnFromInterrupt s).irqEn = s.irqEn := rfl
@[simp] theorem returnFromInterrupt_irqPrio (s : State) :
    (returnFromInterrupt s).irqPrio = s.irqPrio := rfl
@[simp] theorem returnFromInterrupt_clkF (s : State) : (returnFromInterrupt s).clkF = s.clkF := rfl
@[simp] theorem returnFromInterrupt_brgDiv (s : State) :
    (returnFromInterrupt s).brgDiv = s.brgDiv := rfl
@[simp] theorem returnFromInterrupt_brgRate (s : State) :
    (returnFromInterrupt s).brgRate = s.brgRate := rfl
@[simp] theorem returnFromInterrupt_brgCnt (s : State) :
    (returnFromInterrupt s).brgCnt = s.brgCnt := rfl
@[simp] theorem returnFromInterrupt_baudTick (s : State) :
    (returnFromInterrupt s).baudTick = s.baudTick := rfl
@[simp] theorem returnFromInterrupt_ue (s : State) : (returnFromInterrupt s).ue = s.ue := rfl
@[simp] theorem returnFromInterrupt_tdr (s : State) : (returnFromInterrupt s).tdr = s.tdr := rfl
@[simp] theorem returnFromInterrupt_txe (s : State) : (returnFromInterrupt s).txe = s.txe := rfl
@[simp] theorem returnFromInterrupt_tsr (s : State) : (returnFromInterrupt s).tsr = s.tsr := rfl
@[simp] theorem returnFromInterrupt_busy (s : State) : (returnFromInterrupt s).busy = s.busy := rfl
@[simp] theorem returnFromInterrupt_fdiv (s : State) : (returnFromInterrupt s).fdiv = s.fdiv := rfl
@[simp] theorem returnFromInterrupt_rdr (s : State) : (returnFromInterrupt s).rdr = s.rdr := rfl
@[simp] theorem returnFromInterrupt_rxne (s : State) : (returnFromInterrupt s).rxne = s.rxne := rfl
@[simp] theorem returnFromInterrupt_dmat (s : State) : (returnFromInterrupt s).dmat = s.dmat := rfl
@[simp] theorem returnFromInterrupt_dmar (s : State) : (returnFromInterrupt s).dmar = s.dmar := rfl
@[simp] theorem returnFromInterrupt_tx (s : State) : (returnFromInterrupt s).tx = s.tx := rfl
@[simp] theorem returnFromInterrupt_rx (s : State) : (returnFromInterrupt s).rx = s.rx := rfl
@[simp] theorem returnFromInterrupt_rxTcie (s : State) :
    (returnFromInterrupt s).rxTcie = s.rxTcie := rfl
@[simp] theorem returnFromInterrupt_done (s : State) : (returnFromInterrupt s).done = s.done := rfl
@[simp] theorem returnFromInterrupt_irqActive (s : State) :
    (returnFromInterrupt s).irqActive = false := rfl
@[simp] theorem returnFromInterrupt_pc (s : State) : (returnFromInterrupt s).pc = s.pc := rfl
@[simp] theorem returnFromInterrupt_hpc (s : State) : (returnFromInterrupt s).hpc = s.hpc := rfl
@[simp] theorem returnFromInterrupt_fault (s : State) :
    (returnFromInterrupt s).fault = s.fault := rfl
@[simp] theorem returnFromInterrupt_frames (s : State) :
    (returnFromInterrupt s).frames = s.frames := rfl
@[simp] theorem returnFromInterrupt_hist (s : State) :
    (returnFromInterrupt s).hist = s.hist ++ [.irqReturn] := rfl
@[simp] theorem returnFromInterrupt_mem (s : State) : (returnFromInterrupt s).mem = s.mem := rfl
@[simp] theorem returnFromInterrupt_launch (s : State) :
    (returnFromInterrupt s).launch = s.launch := rfl
@[simp] theorem returnFromInterrupt_inputs (s : State) :
    (returnFromInterrupt s).inputs = s.inputs := rfl

/-! `setTx`. -/

@[simp] theorem setTx_clkOn (c : Channel) (s : State) :
    (setTx c s).clkOn = s.clkOn := rfl
@[simp] theorem setTx_pinTxl (c : Channel) (s : State) :
    (setTx c s).pinTxl = s.pinTxl := rfl
@[simp] theorem setTx_pinRxl (c : Channel) (s : State) :
    (setTx c s).pinRxl = s.pinRxl := rfl
@[simp] theorem setTx_wired (c : Channel) (s : State) :
    (setTx c s).wired = s.wired := rfl
@[simp] theorem setTx_irqEn (c : Channel) (s : State) :
    (setTx c s).irqEn = s.irqEn := rfl
@[simp] theorem setTx_irqPrio (c : Channel) (s : State) :
    (setTx c s).irqPrio = s.irqPrio := rfl
@[simp] theorem setTx_clkF (c : Channel) (s : State) :
    (setTx c s).clkF = s.clkF := rfl
@[simp] theorem setTx_brgDiv (c : Channel) (s : State) :
    (setTx c s).brgDiv = s.brgDiv := rfl
@[simp] theorem setTx_brgRate (c : Channel) (s : State) :
    (setTx c s).brgRate = s.brgRate := rfl
@[simp] theorem setTx_brgCnt (c : Channel) (s : State) :
    (setTx c s).brgCnt = s.brgCnt := rfl
@[simp] theorem setTx_baudTick (c : Channel) (s : State) :
    (setTx c s).baudTick = s.baudTick := rfl
@[simp] theorem setTx_ue (c : Channel) (s : State) :
    (setTx c s).ue = s.ue := rfl
@[simp] theorem setTx_tdr (c : Channel) (s : State) :
    (setTx c s).tdr = s.tdr := rfl
@[simp] theorem setTx_txe (c : Channel) (s : State) :
    (setTx c s).txe = s.txe := rfl
@[simp] theorem setTx_tsr (c : Channel) (s : State) :
    (setTx c s).tsr = s.tsr := rfl
@[simp] theorem setTx_busy (c : Channel) (s : State) :
    (setTx c s).busy = s.busy := rfl
@[simp] theorem setTx_fdiv (c : Channel) (s : State) :
    (setTx c s).fdiv = s.fdiv := rfl
@[simp] theorem setTx_rdr (c : Channel) (s : State) :
    (setTx c s).rdr = s.rdr := rfl
@[simp] theorem setTx_rxne (c : Channel) (s : State) :
    (setTx c s).rxne = s.rxne := rfl
@[simp] theorem setTx_dmat (c : Channel) (s : State) :
    (setTx c s).dmat = s.dmat := rfl
@[simp] theorem setTx_dmar (c : Channel) (s : State) :
    (setTx c s).dmar = s.dmar := rfl
@[simp] theorem setTx_tx (c : Channel) (s : State) :
    (setTx c s).tx = c := rfl
@[simp] theorem setTx_rx (c : Channel) (s : State) :
    (setTx c s).rx = s.rx := rfl
@[simp] theorem setTx_rxTcie (c : Channel) (s : State) :
    (setTx c s).rxTcie = s.rxTcie := rfl
@[simp] theorem setTx_done (c : Channel) (s : State) :
    (setTx c s).done = s.done := rfl
@[simp] theorem setTx_irqActive (c : Channel) (s : State) :
    (setTx c s).irqActive = s.irqActive := rfl
@[simp] theorem setTx_pc (c : Channel) (s : State) :
    (setTx c s).pc = s.pc := rfl
@[simp] theorem setTx_hpc (c : Channel) (s : State) :
    (setTx c s).hpc = s.hpc := rfl
@[simp] theorem setTx_fault (c : Channel) (s : State) :
    (setTx c s).fault = s.fault := rfl
@[simp] theorem setTx_frames (c : Channel) (s : State) :
    (setTx c s).frames = s.frames := rfl
@[simp] theorem setTx_hist (c : Channel) (s : State) :
    (setTx c s).hist = s.hist := rfl
@[simp] theorem setTx_mem (c : Channel) (s : State) :
    (setTx c s).mem = s.mem := rfl
@[simp] theorem setTx_launch (c : Channel) (s : State) :
    (setTx c s).launch = s.launch := rfl
@[simp] theorem setTx_inputs (c : Channel) (s : State) :
    (setTx c s).inputs = s.inputs := rfl

/-! `setRx`. -/

@[simp] theorem setRx_clkOn (c : Channel) (s : State) :
    (setRx c s).clkOn = s.clkOn := rfl
@[simp] theorem setRx_pinTxl (c : Channel) (s : State) :
    (setRx c s).pinTxl = s.pinTxl := rfl
@[simp] theorem setRx_pinRxl (c : Channel) (s : State) :
    (setRx c s).pinRxl = s.pinRxl := rfl
@[simp] theorem setRx_wired (c : Channel) (s : State) :
    (setRx c s).wired = s.wired := rfl
@[simp] theorem setRx_irqEn (c : Channel) (s : State) :
    (setRx c s).irqEn = s.irqEn := rfl
@[simp] theorem setRx_irqPrio (c : Channel) (s : State) :
    (setRx c s).irqPrio = s.irqPrio := rfl
@[simp] theorem setRx_clkF (c : Channel) (s : State) :
    (setRx c s).clkF = s.clkF := rfl
@[simp] theorem setRx_brgDiv (c : Channel) (s : State) :
    (setRx c s).brgDiv = s.brgDiv := rfl
@[simp] theorem setRx_brgRate (c : Channel) (s : State) :
    (setRx c s).brgRate = s.brgRate := rfl
@[simp] theorem setRx_brgCnt (c : Channel) (s : State) :
    (setRx c s).brgCnt = s.brgCnt := rfl
@[simp] theorem setRx_baudTick (c : Channel) (s : State) :
    (setRx c s).baudTick = s.baudTick := rfl
@[simp] theorem setRx_ue (c : Channel) (s : State) :
    (setRx c s).ue = s.ue := rfl
@[simp] theorem setRx_tdr (c : Channel) (s : State) :
    (setRx c s).tdr = s.tdr := rfl
@[simp] theorem setRx_txe (c : Channel) (s : State) :
    (setRx c s).txe = s.txe := rfl
@[simp] theorem setRx_tsr (c : Channel) (s : State) :
    (setRx c s).tsr = s.tsr := rfl
@[simp] theorem setRx_busy (c : Channel) (s : State) :
    (setRx c s).busy = s.busy := rfl
@[simp] theorem setRx_fdiv (c : Channel) (s : State) :
    (setRx c s).fdiv = s.fdiv := rfl
@[simp] theorem setRx_rdr (c : Channel) (s : State) :
    (setRx c s).rdr = s.rdr := rfl
@[simp] theorem setRx_rxne (c : Channel) (s : State) :
    (setRx c s).rxne = s.rxne := rfl
@[simp] theorem setRx_dmat (c : Channel) (s : State) :
    (setRx c s).dmat = s.dmat := rfl
@[simp] theorem setRx_dmar (c : Channel) (s : State) :
    (setRx c s).dmar = s.dmar := rfl
@[simp] theorem setRx_tx (c : Channel) (s : State) :
    (setRx c s).tx = s.tx := rfl
@[simp] theorem setRx_rx (c : Channel) (s : State) :
    (setRx c s).rx = c := rfl
@[simp] theorem setRx_rxTcie (c : Channel) (s : State) :
    (setRx c s).rxTcie = s.rxTcie := rfl
@[simp] theorem setRx_done (c : Channel) (s : State) :
    (setRx c s).done = s.done := rfl
@[simp] theorem setRx_irqActive (c : Channel) (s : State) :
    (setRx c s).irqActive = s.irqActive := rfl
@[simp] theorem setRx_pc (c : Channel) (s : State) :
    (setRx c s).pc = s.pc := rfl
@[simp] theorem setRx_hpc (c : Channel) (s : State) :
    (setRx c s).hpc = s.hpc := rfl
@[simp] theorem setRx_fault (c : Channel) (s : State) :
    (setRx c s).fault = s.fault := rfl
@[simp] theorem setRx_frames (c : Channel) (s : State) :
    (setRx c s).frames = s.frames := rfl
@[simp] theorem setRx_hist (c : Channel) (s : State) :
    (setRx c s).hist = s.hist := rfl
@[simp] theorem setRx_mem (c : Channel) (s : State) :
    (setRx c s).mem = s.mem := rfl
@[simp] theorem setRx_launch (c : Channel) (s : State) :
    (setRx c s).launch = s.launch := rfl
@[simp] theorem setRx_inputs (c : Channel) (s : State) :
    (setRx c s).inputs = s.inputs := rfl

/-! `useChoice`. -/

@[simp] theorem useChoice_clkOn (s : State) : (useChoice s).clkOn = s.clkOn := rfl
@[simp] theorem useChoice_pinTxl (s : State) : (useChoice s).pinTxl = s.pinTxl := rfl
@[simp] theorem useChoice_pinRxl (s : State) : (useChoice s).pinRxl = s.pinRxl := rfl
@[simp] theorem useChoice_wired (s : State) : (useChoice s).wired = s.wired := rfl
@[simp] theorem useChoice_irqEn (s : State) : (useChoice s).irqEn = s.irqEn := rfl
@[simp] theorem useChoice_irqPrio (s : State) : (useChoice s).irqPrio = s.irqPrio := rfl
@[simp] theorem useChoice_clkF (s : State) : (useChoice s).clkF = s.clkF := rfl
@[simp] theorem useChoice_brgDiv (s : State) : (useChoice s).brgDiv = s.brgDiv := rfl
@[simp] theorem useChoice_brgRate (s : State) : (useChoice s).brgRate = s.brgRate := rfl
@[simp] theorem useChoice_brgCnt (s : State) : (useChoice s).brgCnt = s.brgCnt := rfl
@[simp] theorem useChoice_baudTick (s : State) : (useChoice s).baudTick = s.baudTick := rfl
@[simp] theorem useChoice_ue (s : State) : (useChoice s).ue = s.ue := rfl
@[simp] theorem useChoice_tdr (s : State) : (useChoice s).tdr = s.tdr := rfl
@[simp] theorem useChoice_txe (s : State) : (useChoice s).txe = s.txe := rfl
@[simp] theorem useChoice_tsr (s : State) : (useChoice s).tsr = s.tsr := rfl
@[simp] theorem useChoice_busy (s : State) : (useChoice s).busy = s.busy := rfl
@[simp] theorem useChoice_fdiv (s : State) : (useChoice s).fdiv = s.fdiv := rfl
@[simp] theorem useChoice_rdr (s : State) : (useChoice s).rdr = s.rdr := rfl
@[simp] theorem useChoice_rxne (s : State) : (useChoice s).rxne = s.rxne := rfl
@[simp] theorem useChoice_dmat (s : State) : (useChoice s).dmat = s.dmat := rfl
@[simp] theorem useChoice_dmar (s : State) : (useChoice s).dmar = s.dmar := rfl
@[simp] theorem useChoice_tx (s : State) : (useChoice s).tx = s.tx := rfl
@[simp] theorem useChoice_rx (s : State) : (useChoice s).rx = s.rx := rfl
@[simp] theorem useChoice_rxTcie (s : State) : (useChoice s).rxTcie = s.rxTcie := rfl
@[simp] theorem useChoice_done (s : State) : (useChoice s).done = s.done := rfl
@[simp] theorem useChoice_irqActive (s : State) : (useChoice s).irqActive = s.irqActive := rfl
@[simp] theorem useChoice_pc (s : State) : (useChoice s).pc = s.pc := rfl
@[simp] theorem useChoice_hpc (s : State) : (useChoice s).hpc = s.hpc := rfl
@[simp] theorem useChoice_fault (s : State) : (useChoice s).fault = s.fault := rfl
@[simp] theorem useChoice_frames (s : State) : (useChoice s).frames = s.frames := rfl
@[simp] theorem useChoice_hist (s : State) : (useChoice s).hist = s.hist := rfl
@[simp] theorem useChoice_mem (s : State) : (useChoice s).mem = s.mem := rfl
@[simp] theorem useChoice_launch (s : State) : (useChoice s).launch = s.launch := rfl
@[simp] theorem useChoice_inputs (s : State) :
    (useChoice s).inputs = { s.inputs with choices := s.inputs.choices.tail, steps := s.inputs.steps + 1 } := rfl

/-! `useClock`. -/

@[simp] theorem useClock_clkOn (s : State) : (useClock s).clkOn = s.clkOn := rfl
@[simp] theorem useClock_pinTxl (s : State) : (useClock s).pinTxl = s.pinTxl := rfl
@[simp] theorem useClock_pinRxl (s : State) : (useClock s).pinRxl = s.pinRxl := rfl
@[simp] theorem useClock_wired (s : State) : (useClock s).wired = s.wired := rfl
@[simp] theorem useClock_irqEn (s : State) : (useClock s).irqEn = s.irqEn := rfl
@[simp] theorem useClock_irqPrio (s : State) : (useClock s).irqPrio = s.irqPrio := rfl
@[simp] theorem useClock_clkF (s : State) : (useClock s).clkF = s.clkF := rfl
@[simp] theorem useClock_brgDiv (s : State) : (useClock s).brgDiv = s.brgDiv := rfl
@[simp] theorem useClock_brgRate (s : State) : (useClock s).brgRate = s.brgRate := rfl
@[simp] theorem useClock_brgCnt (s : State) : (useClock s).brgCnt = s.brgCnt := rfl
@[simp] theorem useClock_baudTick (s : State) : (useClock s).baudTick = s.baudTick := rfl
@[simp] theorem useClock_ue (s : State) : (useClock s).ue = s.ue := rfl
@[simp] theorem useClock_tdr (s : State) : (useClock s).tdr = s.tdr := rfl
@[simp] theorem useClock_txe (s : State) : (useClock s).txe = s.txe := rfl
@[simp] theorem useClock_tsr (s : State) : (useClock s).tsr = s.tsr := rfl
@[simp] theorem useClock_busy (s : State) : (useClock s).busy = s.busy := rfl
@[simp] theorem useClock_fdiv (s : State) : (useClock s).fdiv = s.fdiv := rfl
@[simp] theorem useClock_rdr (s : State) : (useClock s).rdr = s.rdr := rfl
@[simp] theorem useClock_rxne (s : State) : (useClock s).rxne = s.rxne := rfl
@[simp] theorem useClock_dmat (s : State) : (useClock s).dmat = s.dmat := rfl
@[simp] theorem useClock_dmar (s : State) : (useClock s).dmar = s.dmar := rfl
@[simp] theorem useClock_tx (s : State) : (useClock s).tx = s.tx := rfl
@[simp] theorem useClock_rx (s : State) : (useClock s).rx = s.rx := rfl
@[simp] theorem useClock_rxTcie (s : State) : (useClock s).rxTcie = s.rxTcie := rfl
@[simp] theorem useClock_done (s : State) : (useClock s).done = s.done := rfl
@[simp] theorem useClock_irqActive (s : State) : (useClock s).irqActive = s.irqActive := rfl
@[simp] theorem useClock_pc (s : State) : (useClock s).pc = s.pc := rfl
@[simp] theorem useClock_hpc (s : State) : (useClock s).hpc = s.hpc := rfl
@[simp] theorem useClock_fault (s : State) : (useClock s).fault = s.fault := rfl
@[simp] theorem useClock_frames (s : State) : (useClock s).frames = s.frames := rfl
@[simp] theorem useClock_hist (s : State) : (useClock s).hist = s.hist := rfl
@[simp] theorem useClock_mem (s : State) : (useClock s).mem = s.mem := rfl
@[simp] theorem useClock_launch (s : State) : (useClock s).launch = s.launch := rfl
@[simp] theorem useClock_inputs (s : State) :
    (useClock s).inputs = { s.inputs with clocks := s.inputs.clocks.tail, draws := s.inputs.draws + 1 } := rfl

/-! `clearFlags`. -/

@[simp] theorem clearFlags_clkOn (m : BitVec 2) (s : State) :
    (clearFlags m s).clkOn = s.clkOn := rfl
@[simp] theorem clearFlags_pinTxl (m : BitVec 2) (s : State) :
    (clearFlags m s).pinTxl = s.pinTxl := rfl
@[simp] theorem clearFlags_pinRxl (m : BitVec 2) (s : State) :
    (clearFlags m s).pinRxl = s.pinRxl := rfl
@[simp] theorem clearFlags_wired (m : BitVec 2) (s : State) :
    (clearFlags m s).wired = s.wired := rfl
@[simp] theorem clearFlags_irqEn (m : BitVec 2) (s : State) :
    (clearFlags m s).irqEn = s.irqEn := rfl
@[simp] theorem clearFlags_irqPrio (m : BitVec 2) (s : State) :
    (clearFlags m s).irqPrio = s.irqPrio := rfl
@[simp] theorem clearFlags_clkF (m : BitVec 2) (s : State) : (clearFlags m s).clkF = s.clkF := rfl
@[simp] theorem clearFlags_brgDiv (m : BitVec 2) (s : State) :
    (clearFlags m s).brgDiv = s.brgDiv := rfl
@[simp] theorem clearFlags_brgRate (m : BitVec 2) (s : State) :
    (clearFlags m s).brgRate = s.brgRate := rfl
@[simp] theorem clearFlags_brgCnt (m : BitVec 2) (s : State) :
    (clearFlags m s).brgCnt = s.brgCnt := rfl
@[simp] theorem clearFlags_baudTick (m : BitVec 2) (s : State) :
    (clearFlags m s).baudTick = s.baudTick := rfl
@[simp] theorem clearFlags_ue (m : BitVec 2) (s : State) : (clearFlags m s).ue = s.ue := rfl
@[simp] theorem clearFlags_tdr (m : BitVec 2) (s : State) : (clearFlags m s).tdr = s.tdr := rfl
@[simp] theorem clearFlags_txe (m : BitVec 2) (s : State) : (clearFlags m s).txe = s.txe := rfl
@[simp] theorem clearFlags_tsr (m : BitVec 2) (s : State) : (clearFlags m s).tsr = s.tsr := rfl
@[simp] theorem clearFlags_busy (m : BitVec 2) (s : State) : (clearFlags m s).busy = s.busy := rfl
@[simp] theorem clearFlags_fdiv (m : BitVec 2) (s : State) : (clearFlags m s).fdiv = s.fdiv := rfl
@[simp] theorem clearFlags_rdr (m : BitVec 2) (s : State) : (clearFlags m s).rdr = s.rdr := rfl
@[simp] theorem clearFlags_rxne (m : BitVec 2) (s : State) : (clearFlags m s).rxne = s.rxne := rfl
@[simp] theorem clearFlags_dmat (m : BitVec 2) (s : State) : (clearFlags m s).dmat = s.dmat := rfl
@[simp] theorem clearFlags_dmar (m : BitVec 2) (s : State) : (clearFlags m s).dmar = s.dmar := rfl
@[simp] theorem clearFlags_tx (m : BitVec 2) (s : State) :
    (clearFlags m s).tx = { s.tx with tc := s.tx.tc && !maskTx m } := rfl
@[simp] theorem clearFlags_rx (m : BitVec 2) (s : State) :
    (clearFlags m s).rx = { s.rx with tc := s.rx.tc && !maskRx m } := rfl
@[simp] theorem clearFlags_rxTcie (m : BitVec 2) (s : State) :
    (clearFlags m s).rxTcie = s.rxTcie := rfl
@[simp] theorem clearFlags_done (m : BitVec 2) (s : State) : (clearFlags m s).done = s.done := rfl
@[simp] theorem clearFlags_irqActive (m : BitVec 2) (s : State) :
    (clearFlags m s).irqActive = s.irqActive := rfl
@[simp] theorem clearFlags_pc (m : BitVec 2) (s : State) : (clearFlags m s).pc = s.pc := rfl
@[simp] theorem clearFlags_hpc (m : BitVec 2) (s : State) : (clearFlags m s).hpc = s.hpc := rfl
@[simp] theorem clearFlags_fault (m : BitVec 2) (s : State) :
    (clearFlags m s).fault = s.fault := rfl
@[simp] theorem clearFlags_frames (m : BitVec 2) (s : State) :
    (clearFlags m s).frames = s.frames := rfl
@[simp] theorem clearFlags_hist (m : BitVec 2) (s : State) : (clearFlags m s).hist = s.hist := rfl
@[simp] theorem clearFlags_mem (m : BitVec 2) (s : State) : (clearFlags m s).mem = s.mem := rfl
@[simp] theorem clearFlags_launch (m : BitVec 2) (s : State) :
    (clearFlags m s).launch = s.launch := rfl
@[simp] theorem clearFlags_inputs (m : BitVec 2) (s : State) :
    (clearFlags m s).inputs = s.inputs := rfl

/-! `flagsAfterStart`. -/

@[simp] theorem flagsAfterStart_clkOn (s : State) : (flagsAfterStart s).clkOn = s.clkOn := rfl
@[simp] theorem flagsAfterStart_pinTxl (s : State) : (flagsAfterStart s).pinTxl = s.pinTxl := rfl
@[simp] theorem flagsAfterStart_pinRxl (s : State) : (flagsAfterStart s).pinRxl = s.pinRxl := rfl
@[simp] theorem flagsAfterStart_wired (s : State) : (flagsAfterStart s).wired = s.wired := rfl
@[simp] theorem flagsAfterStart_irqEn (s : State) : (flagsAfterStart s).irqEn = s.irqEn := rfl
@[simp] theorem flagsAfterStart_irqPrio (s : State) : (flagsAfterStart s).irqPrio = s.irqPrio := rfl
@[simp] theorem flagsAfterStart_clkF (s : State) : (flagsAfterStart s).clkF = s.clkF := rfl
@[simp] theorem flagsAfterStart_brgDiv (s : State) : (flagsAfterStart s).brgDiv = s.brgDiv := rfl
@[simp] theorem flagsAfterStart_brgRate (s : State) : (flagsAfterStart s).brgRate = s.brgRate := rfl
@[simp] theorem flagsAfterStart_brgCnt (s : State) : (flagsAfterStart s).brgCnt = s.brgCnt := rfl
@[simp] theorem flagsAfterStart_baudTick (s : State) :
    (flagsAfterStart s).baudTick = s.baudTick := rfl
@[simp] theorem flagsAfterStart_ue (s : State) : (flagsAfterStart s).ue = s.ue := rfl
@[simp] theorem flagsAfterStart_tdr (s : State) : (flagsAfterStart s).tdr = s.tdr := rfl
@[simp] theorem flagsAfterStart_txe (s : State) : (flagsAfterStart s).txe = true := rfl
@[simp] theorem flagsAfterStart_tsr (s : State) : (flagsAfterStart s).tsr = s.tsr := rfl
@[simp] theorem flagsAfterStart_busy (s : State) : (flagsAfterStart s).busy = true := rfl
@[simp] theorem flagsAfterStart_fdiv (s : State) : (flagsAfterStart s).fdiv = s.fdiv := rfl
@[simp] theorem flagsAfterStart_rdr (s : State) : (flagsAfterStart s).rdr = s.rdr := rfl
@[simp] theorem flagsAfterStart_rxne (s : State) : (flagsAfterStart s).rxne = s.rxne := rfl
@[simp] theorem flagsAfterStart_dmat (s : State) : (flagsAfterStart s).dmat = s.dmat := rfl
@[simp] theorem flagsAfterStart_dmar (s : State) : (flagsAfterStart s).dmar = s.dmar := rfl
@[simp] theorem flagsAfterStart_tx (s : State) : (flagsAfterStart s).tx = s.tx := rfl
@[simp] theorem flagsAfterStart_rx (s : State) : (flagsAfterStart s).rx = s.rx := rfl
@[simp] theorem flagsAfterStart_rxTcie (s : State) : (flagsAfterStart s).rxTcie = s.rxTcie := rfl
@[simp] theorem flagsAfterStart_done (s : State) : (flagsAfterStart s).done = s.done := rfl
@[simp] theorem flagsAfterStart_irqActive (s : State) :
    (flagsAfterStart s).irqActive = s.irqActive := rfl
@[simp] theorem flagsAfterStart_pc (s : State) : (flagsAfterStart s).pc = s.pc := rfl
@[simp] theorem flagsAfterStart_hpc (s : State) : (flagsAfterStart s).hpc = s.hpc := rfl
@[simp] theorem flagsAfterStart_fault (s : State) : (flagsAfterStart s).fault = s.fault := rfl
@[simp] theorem flagsAfterStart_frames (s : State) : (flagsAfterStart s).frames = s.frames := rfl
@[simp] theorem flagsAfterStart_hist (s : State) : (flagsAfterStart s).hist = s.hist := rfl
@[simp] theorem flagsAfterStart_mem (s : State) : (flagsAfterStart s).mem = s.mem := rfl
@[simp] theorem flagsAfterStart_launch (s : State) : (flagsAfterStart s).launch = s.launch := rfl
@[simp] theorem flagsAfterStart_inputs (s : State) : (flagsAfterStart s).inputs = s.inputs := rfl

/-! `flagsAfterComplete`. -/

@[simp] theorem flagsAfterComplete_clkOn (s : State) : (flagsAfterComplete s).clkOn = s.clkOn := rfl
@[simp] theorem flagsAfterComplete_pinTxl (s : State) :
    (flagsAfterComplete s).pinTxl = s.pinTxl := rfl
@[simp] theorem flagsAfterComplete_pinRxl (s : State) :
    (flagsAfterComplete s).pinRxl = s.pinRxl := rfl
@[simp] theorem flagsAfterComplete_wired (s : State) : (flagsAfterComplete s).wired = s.wired := rfl
@[simp] theorem flagsAfterComplete_irqEn (s : State) : (flagsAfterComplete s).irqEn = s.irqEn := rfl
@[simp] theorem flagsAfterComplete_irqPrio (s : State) :
    (flagsAfterComplete s).irqPrio = s.irqPrio := rfl
@[simp] theorem flagsAfterComplete_clkF (s : State) : (flagsAfterComplete s).clkF = s.clkF := rfl
@[simp] theorem flagsAfterComplete_brgDiv (s : State) :
    (flagsAfterComplete s).brgDiv = s.brgDiv := rfl
@[simp] theorem flagsAfterComplete_brgRate (s : State) :
    (flagsAfterComplete s).brgRate = s.brgRate := rfl
@[simp] theorem flagsAfterComplete_brgCnt (s : State) :
    (flagsAfterComplete s).brgCnt = s.brgCnt := rfl
@[simp] theorem flagsAfterComplete_baudTick (s : State) :
    (flagsAfterComplete s).baudTick = s.baudTick := rfl
@[simp] theorem flagsAfterComplete_ue (s : State) : (flagsAfterComplete s).ue = s.ue := rfl
@[simp] theorem flagsAfterComplete_tdr (s : State) : (flagsAfterComplete s).tdr = s.tdr := rfl
@[simp] theorem flagsAfterComplete_txe (s : State) : (flagsAfterComplete s).txe = s.txe := rfl
@[simp] theorem flagsAfterComplete_tsr (s : State) : (flagsAfterComplete s).tsr = s.tsr := rfl
@[simp] theorem flagsAfterComplete_busy (s : State) : (flagsAfterComplete s).busy = false := rfl
@[simp] theorem flagsAfterComplete_fdiv (s : State) : (flagsAfterComplete s).fdiv = s.fdiv := rfl
@[simp] theorem flagsAfterComplete_rdr (s : State) : (flagsAfterComplete s).rdr = s.rdr := rfl
@[simp] theorem flagsAfterComplete_rxne (s : State) : (flagsAfterComplete s).rxne = true := rfl
@[simp] theorem flagsAfterComplete_dmat (s : State) : (flagsAfterComplete s).dmat = s.dmat := rfl
@[simp] theorem flagsAfterComplete_dmar (s : State) : (flagsAfterComplete s).dmar = s.dmar := rfl
@[simp] theorem flagsAfterComplete_tx (s : State) : (flagsAfterComplete s).tx = s.tx := rfl
@[simp] theorem flagsAfterComplete_rx (s : State) : (flagsAfterComplete s).rx = s.rx := rfl
@[simp] theorem flagsAfterComplete_rxTcie (s : State) :
    (flagsAfterComplete s).rxTcie = s.rxTcie := rfl
@[simp] theorem flagsAfterComplete_done (s : State) : (flagsAfterComplete s).done = s.done := rfl
@[simp] theorem flagsAfterComplete_irqActive (s : State) :
    (flagsAfterComplete s).irqActive = s.irqActive := rfl
@[simp] theorem flagsAfterComplete_pc (s : State) : (flagsAfterComplete s).pc = s.pc := rfl
@[simp] theorem flagsAfterComplete_hpc (s : State) : (flagsAfterComplete s).hpc = s.hpc := rfl
@[simp] theorem flagsAfterComplete_fault (s : State) : (flagsAfterComplete s).fault = s.fault := rfl
@[simp] theorem flagsAfterComplete_frames (s : State) :
    (flagsAfterComplete s).frames = s.frames := rfl
@[simp] theorem flagsAfterComplete_hist (s : State) : (flagsAfterComplete s).hist = s.hist := rfl
@[simp] theorem flagsAfterComplete_mem (s : State) : (flagsAfterComplete s).mem = s.mem := rfl
@[simp] theorem flagsAfterComplete_launch (s : State) :
    (flagsAfterComplete s).launch = s.launch := rfl
@[simp] theorem flagsAfterComplete_inputs (s : State) :
    (flagsAfterComplete s).inputs = s.inputs := rfl

/-! `applyReset`. -/

@[simp] theorem applyReset_clkOn (s : State) : (applyReset s).clkOn = State.reset.clkOn := rfl
@[simp] theorem applyReset_pinTxl (s : State) : (applyReset s).pinTxl = State.reset.pinTxl := rfl
@[simp] theorem applyReset_pinRxl (s : State) : (applyReset s).pinRxl = State.reset.pinRxl := rfl
@[simp] theorem applyReset_wired (s : State) : (applyReset s).wired = State.reset.wired := rfl
@[simp] theorem applyReset_irqEn (s : State) : (applyReset s).irqEn = State.reset.irqEn := rfl
@[simp] theorem applyReset_irqPrio (s : State) : (applyReset s).irqPrio = State.reset.irqPrio := rfl
@[simp] theorem applyReset_clkF (s : State) : (applyReset s).clkF = State.reset.clkF := rfl
@[simp] theorem applyReset_brgDiv (s : State) : (applyReset s).brgDiv = State.reset.brgDiv := rfl
@[simp] theorem applyReset_brgRate (s : State) : (applyReset s).brgRate = State.reset.brgRate := rfl
@[simp] theorem applyReset_brgCnt (s : State) : (applyReset s).brgCnt = State.reset.brgCnt := rfl
@[simp] theorem applyReset_baudTick (s : State) :
    (applyReset s).baudTick = State.reset.baudTick := rfl
@[simp] theorem applyReset_ue (s : State) : (applyReset s).ue = State.reset.ue := rfl
@[simp] theorem applyReset_tdr (s : State) : (applyReset s).tdr = State.reset.tdr := rfl
@[simp] theorem applyReset_txe (s : State) : (applyReset s).txe = State.reset.txe := rfl
@[simp] theorem applyReset_tsr (s : State) : (applyReset s).tsr = State.reset.tsr := rfl
@[simp] theorem applyReset_busy (s : State) : (applyReset s).busy = State.reset.busy := rfl
@[simp] theorem applyReset_fdiv (s : State) : (applyReset s).fdiv = State.reset.fdiv := rfl
@[simp] theorem applyReset_rdr (s : State) : (applyReset s).rdr = State.reset.rdr := rfl
@[simp] theorem applyReset_rxne (s : State) : (applyReset s).rxne = State.reset.rxne := rfl
@[simp] theorem applyReset_dmat (s : State) : (applyReset s).dmat = State.reset.dmat := rfl
@[simp] theorem applyReset_dmar (s : State) : (applyReset s).dmar = State.reset.dmar := rfl
@[simp] theorem applyReset_tx (s : State) : (applyReset s).tx = State.reset.tx := rfl
@[simp] theorem applyReset_rx (s : State) : (applyReset s).rx = State.reset.rx := rfl
@[simp] theorem applyReset_rxTcie (s : State) : (applyReset s).rxTcie = State.reset.rxTcie := rfl
@[simp] theorem applyReset_done (s : State) : (applyReset s).done = State.reset.done := rfl
@[simp] theorem applyReset_irqActive (s : State) :
    (applyReset s).irqActive = State.reset.irqActive := rfl
@[simp] theorem applyReset_pc (s : State) : (applyReset s).pc = State.reset.pc := rfl
@[simp] theorem applyReset_hpc (s : State) : (applyReset s).hpc = State.reset.hpc := rfl
@[simp] theorem applyReset_fault (s : State) : (applyReset s).fault = State.reset.fault := rfl
@[simp] theorem applyReset_frames (s : State) : (applyReset s).frames = State.reset.frames := rfl
@[simp] theorem applyReset_hist (s : State) : (applyReset s).hist = State.reset.hist := rfl
@[simp] theorem applyReset_mem (s : State) : (applyReset s).mem = s.mem := rfl
@[simp] theorem applyReset_launch (s : State) : (applyReset s).launch = s.launch := rfl
@[simp] theorem applyReset_inputs (s : State) : (applyReset s).inputs = s.inputs := rfl

/-! Channels. -/

@[simp] theorem Channel.afterBeat_paddr (c : Channel) (d : Descriptor) :
    (c.afterBeat d).paddr = some (nextAddr d.pinc d.paddr) := rfl
@[simp] theorem Channel.afterBeat_maddr (c : Channel) (d : Descriptor) :
    (c.afterBeat d).maddr = some (nextAddr d.minc d.maddr) := rfl
@[simp] theorem Channel.afterBeat_cnt (c : Channel) (d : Descriptor) :
    (c.afterBeat d).cnt = some (d.cnt - 1) := rfl
@[simp] theorem Channel.afterBeat_dir (c : Channel) (d : Descriptor) :
    (c.afterBeat d).dir = c.dir := rfl
@[simp] theorem Channel.afterBeat_minc (c : Channel) (d : Descriptor) :
    (c.afterBeat d).minc = c.minc := rfl
@[simp] theorem Channel.afterBeat_pinc (c : Channel) (d : Descriptor) :
    (c.afterBeat d).pinc = c.pinc := rfl
@[simp] theorem Channel.afterBeat_en (c : Channel) (d : Descriptor) :
    (c.afterBeat d).en = (c.en && d.cnt - 1 ≠ 0) := rfl
@[simp] theorem Channel.afterBeat_tc (c : Channel) (d : Descriptor) :
    (c.afterBeat d).tc = (c.tc || d.cnt - 1 = 0) := rfl

@[simp] theorem Channel.wire_paddr (c : Channel) (dir : Bool) :
    (c.wire dir).paddr = some Config.drAddr := rfl
@[simp] theorem Channel.wire_maddr (c : Channel) (dir : Bool) : (c.wire dir).maddr = c.maddr := rfl
@[simp] theorem Channel.wire_cnt (c : Channel) (dir : Bool) : (c.wire dir).cnt = c.cnt := rfl
@[simp] theorem Channel.wire_dir (c : Channel) (dir : Bool) : (c.wire dir).dir = some dir := rfl
@[simp] theorem Channel.wire_minc (c : Channel) (dir : Bool) : (c.wire dir).minc = some true := rfl
@[simp] theorem Channel.wire_pinc (c : Channel) (dir : Bool) : (c.wire dir).pinc = some false := rfl
@[simp] theorem Channel.wire_en (c : Channel) (dir : Bool) : (c.wire dir).en = c.en := rfl
@[simp] theorem Channel.wire_tc (c : Channel) (dir : Bool) : (c.wire dir).tc = c.tc := rfl

end Sys2Proof.Machine
end

