-- ==== Sys2Proof/Machine/Assembler.lean ====
section
/-! DEFINITION. The assembler syntax of 30_encoding.md R115, from program text to instruction words;
`none` is text that is not a program. Log entry 28 says what R115 leaves open of it. -/

namespace Sys2Proof.Machine

/-- White space inside a line. -/
def isBlank (c : Char) : Bool := c = ' ' || c = '\t' || c = '\r'

/-- Cut a list of characters at every character of a kind; the pieces may be empty. -/
def splitChars (cut : Char → Bool) : List Char → List (List Char)
  | [] => [[]]
  | c :: cs =>
    match splitChars cut cs with
    | [] => [[]]
    | p :: ps => if cut c then [] :: p :: ps else (c :: p) :: ps

/-- The lines of a text. -/
def linesOf (text : List Char) : List (List Char) := splitChars (fun c => c = '\n') text

/-- The tokens of a line: its comment, from `;` on, is dropped. -/
def tokensOf (line : List Char) : List (List Char) :=
  (splitChars isBlank (line.takeWhile fun c => c ≠ ';')).filter fun t => !t.isEmpty

/-- The value of a digit below 16. -/
def digitValue (c : Char) : Option Nat :=
  if '0' ≤ c ∧ c ≤ '9' then some (c.toNat - '0'.toNat)
  else if 'a' ≤ c ∧ c ≤ 'f' then some (c.toNat - 'a'.toNat + 10)
  else if 'A' ≤ c ∧ c ≤ 'F' then some (c.toNat - 'A'.toNat + 10)
  else none

/-- Digits of a base, most significant first, after a value already read. -/
def digitsFrom (base : Nat) : Nat → List Char → Option Nat
  | acc, [] => some acc
  | acc, c :: cs =>
    match digitValue c with
    | some d => if d < base then digitsFrom base (acc * base + d) cs else none
    | none => none

/-- A decimal number or a hexadecimal one that begins with `0x` (R115). -/
def numberOf : List Char → Option Nat
  | [] => none
  | ['0', 'x'] => none
  | '0' :: 'x' :: ds => digitsFrom 16 0 ds
  | ds => digitsFrom 10 0 ds

/-- A number that fits a field of `n` bits. -/
def fieldOf (n : Nat) (tok : List Char) : Option (BitVec n) :=
  match numberOf tok with
  | some v => if v < 2 ^ n then some (BitVec.ofNat n v) else none
  | none => none

/-- The operand of FCLR: `TX`, `RX` or `TX|RX` (R115). -/
def maskOf (tok : List Char) : Option (BitVec 2) :=
  if tok = "TX".toList then some 0b01
  else if tok = "RX".toList then some 0b10
  else if tok = "TX|RX".toList then some 0b11
  else none

/-- The operand of WDONE: `0` or `1` (R115). -/
def hintOf (tok : List Char) : Option Bool :=
  if tok = "0".toList then some false
  else if tok = "1".toList then some true
  else none

/-- The labels of a program with the index each stands for. -/
abbrev Labels := List (List Char × Nat)

/-- The operand of BUE at index `own`: `+s`, or a label, for which `s = index - (own + 1)`; either
way 0 to 255 (R115). -/
def skipOf (labels : Labels) (own : Nat) (tok : List Char) : Option (BitVec 8) :=
  match tok with
  | '+' :: ds => fieldOf 8 ds
  | name =>
    match labels.lookup name with
    | some at' =>
      if own + 1 ≤ at' ∧ at' - (own + 1) ≤ 255 then some (BitVec.ofNat 8 (at' - (own + 1))) else none
    | none => none

/-- The format N instructions by mnemonic: they take no operand (R115). -/
def plainMnemonics : List (String × Instr) :=
  [("CLKEN", .clken), ("PINCFG", .pincfg), ("DMAWIRE", .dmawire), ("IRQEN", .irqen),
    ("UEDIS", .uedis), ("CLKRD", .clkrd), ("UEEN", .ueen), ("DONECLR", .doneclr),
    ("DRQEN", .drqen), ("TCIEN", .tcien), ("CHEN.RX", .chenRx), ("CHEN.TX", .chenTx),
    ("DRQDIS", .drqdis), ("DONESET", .doneset), ("IRET", .iret), ("WTXE", .wtxe),
    ("WRXNE", .wrxne)]

/-- The instruction with no operand that a mnemonic names; WDONE without one means 0 (R115). -/
def bareInstr (mn : List Char) : Option Instr :=
  if mn = "WDONE".toList then some (.wdone false)
  else (plainMnemonics.find? fun p => p.1.toList = mn).map Prod.snd

/-- The instruction with one operand that a mnemonic names (R105, R115). -/
def operandInstr (labels : Labels) (own : Nat) (mn arg : List Char) : Option Instr :=
  if mn = "BUE".toList then (skipOf labels own arg).map .bue
  else if mn = "BRGLD".toList then (fieldOf 32 arg).map .brgld
  else if mn = "FCLR".toList then (maskOf arg).map .fclr
  else if mn = "LENLD.TX".toList then (fieldOf 16 arg).map .lenldTx
  else if mn = "MALD.TX".toList then (fieldOf 32 arg).map .maldTx
  else if mn = "LENLD.RX".toList then (fieldOf 16 arg).map .lenldRx
  else if mn = "MALD.RX".toList then (fieldOf 32 arg).map .maldRx
  else if mn = "WDONE".toList then (hintOf arg).map .wdone
  else if mn = "PUT".toList then (fieldOf 32 arg).map .put
  else if mn = "GET".toList then (fieldOf 32 arg).map .get
  else none

/-- The instruction of a line's tokens: a mnemonic, then at most one operand (R115). -/
def lineInstr (labels : Labels) (own : Nat) : List (List Char) → Option Instr
  | [mn] => bareInstr mn
  | [mn, arg] => operandInstr labels own mn arg
  | _ => none

/-- A token that is a label: a name followed by `:`. -/
def labelName (tok : List Char) : Option (List Char) :=
  if tok.getLast? = some ':' ∧ 1 < tok.length then some tok.dropLast else none

/-- The label at the start of a line, if there is one, and the rest of its tokens. -/
def splitLabel : List (List Char) → Option (List Char) × List (List Char)
  | [] => (none, [])
  | t :: ts =>
    match labelName t with
    | some n => (some n, ts)
    | none => (none, t :: ts)

/-- The labels of the lines from index `own` on: a label stands for the index of the next
instruction (R115). -/
def labelsFrom : Nat → List (List (List Char)) → Labels
  | _, [] => []
  | own, l :: ls =>
    let (name, body) := splitLabel l
    let rest := labelsFrom (if body.isEmpty then own else own + 1) ls
    match name with
    | some n => (n, own) :: rest
    | none => rest

/-- The instructions of the lines from index `own` on. -/
def instrsFrom (labels : Labels) : Nat → List (List (List Char)) → Option (List Instr)
  | _, [] => some []
  | own, l :: ls =>
    let body := (splitLabel l).2
    if body.isEmpty then instrsFrom labels own ls
    else
      match lineInstr labels own body, instrsFrom labels (own + 1) ls with
      | some i, some is => some (i :: is)
      | _, _ => none

/-- The instruction words of a program text (R115). -/
def assemble (text : String) : Option (List Word) :=
  let ls := (linesOf text.toList).map tokensOf
  (instrsFrom (labelsFrom 0 ls) 0 ls).map fun is => is.map encode

end Sys2Proof.Machine
end

