-- ==== Sys2Proof/Tests/Slice0.lean ====
section
/-! SUPPORT. Tests of the model on vectors of spec/95_test_vectors.md (named V<n> there, P<n> its
programs), and, for each statement of Certificates/Slice0/Obligations.lean that has hypotheses, a
`witness_` theorem: concrete states and operands that meet them, clause by clause. -/

namespace Sys2Proof.Tests

open Sys2Proof Sys2Proof.Machine

/-! Helper states. -/

/-- What a next state holds in a field; nothing for a fault or a refusal. -/
def look {α : Type} (r : Result) (f : State → α) : Option α :=
  match r with
  | .next t => some (f t)
  | .fault _ => none
  | .refused _ => none

/-- Buffers at 0x20000000 (readable) and 0x20000100 (writable), the loop-back bus, `irq_ok` true. -/
def launch : Launch :=
  { prog := [], rd := [⟨0x20000000, 32⟩], wr := [⟨0x20000100, 32⟩]
    bus := .loopback, irqOk := some true, arb := .any }

/-- Reset, with the launch parameters above and the byte 0xF0 at 0x20000000. -/
def base : State := { State.reset with launch := launch, mem := [(0x20000000, 0xF0)] }

/-- After CLKEN only. -/
def clocked : State := { base with clkOn := true }

/-- After CLKEN, with a sampled clock. -/
def sampled (f : Freq) : State := { clocked with clkF := some f }

/-- The end state of P1 but for the history: `configure 9600` at 8 MHz. -/
def configured : State :=
  { clocked with
    pinTxl := .afOdNoPull, pinRxl := .afOdNoPull, wired := true
    irqEn := true, irqPrio := some Config.irqPrio
    clkF := some 8000000, brgDiv := some 833, brgRate := some 9600, brgCnt := some 833, ue := true
    tx := Channel.reset.wire true, rx := Channel.reset.wire false, pc := 9 }

/-- The configured state with both descriptors loaded. -/
def loaded (ta : Addr) (tn : Len) (ra : Addr) (rn : Len) : State :=
  { configured with
    tx := { configured.tx with maddr := some ta, cnt := some tn }
    rx := { configured.rx with maddr := some ra, cnt := some rn } }

/-- A transaction of three bytes with each of them inside the engine: 0x03 in TDR, 0x02 on the wire,
0x01 in RDR, none landed. -/
def flight : State :=
  { configured with
    mem := [(0x20000010, 1), (0x20000011, 2), (0x20000012, 3)]
    dmat := true, dmar := true, rxTcie := true, pc := 19
    tdr := some 3, txe := false, tsr := some 2, busy := true, fdiv := some 833
    rdr := some 1, rxne := true
    tx := { configured.tx with maddr := some 0x20000013, cnt := some 0, tc := true }
    rx := { configured.rx with maddr := some 0x20000110, cnt := some 3, en := true } }

/-- The same transaction with its last byte landed. -/
def landed : State :=
  { configured with
    mem := [(0x20000010, 1), (0x20000011, 2), (0x20000012, 3),
      (0x20000110, 1), (0x20000111, 2), (0x20000112, 3)]
    dmat := true, dmar := true, rxTcie := true, pc := 19
    tdr := some 3, tsr := some 3, fdiv := some 833, rdr := some 3, frames := 3
    tx := { configured.tx with maddr := some 0x20000013, cnt := some 0, tc := true }
    rx := { configured.rx with maddr := some 0x20000113, cnt := some 0, tc := true } }

/-- The handler at its word `k`, entered from `landed`. -/
def handler (k : Nat) : State :=
  { landed with
    irqActive := true, hpc := k, done := 1 ≤ k
    rx := { landed.rx with tc := k ≤ 1 } }

/-- A state in which an agent is offered the next step. -/
def offered (a : Actor) (s : State) : State :=
  { s with inputs := { s.inputs with choices := [a] } }

/-- A state with a program, at its first word, HOST to step. -/
def running (prog : List Word) (s : State) : State :=
  offered .host { s with launch := { s.launch with prog := prog }, pc := 0 }

/-! WellFormed, one ill-formed term for the one check (R101), and the program check (V28, V29). -/

theorem test_wellFormed_refuses_fclr_zero : (Instr.fclr 0).wellFormed = false := by decide

theorem test_wellFormed_accepts_fclr_tx : (Instr.fclr 1).wellFormed = true := by decide

theorem test_program_refused_V28 : programAccepted [0x0100000002, 0x0200000000] = false := by decide

theorem test_program_accepted_V29 : programAccepted [0x0100000001, 0x0200000000] = true := by decide

/-! Decoding: every constructor's word, written out from R100, R101, R105; V1 to V27. -/

theorem test_decode_configuration :
    [(0x0100000004 : Word), 0x0200000000, 0x0300000000, 0x0400000000, 0x0500000000, 0x0600000000,
      0x0700000000, 0x0800002580, 0x0900000000].map decode =
    [.instr (.bue 4), .instr .clken, .instr .pincfg, .instr .dmawire, .instr .irqen, .instr .uedis,
      .instr .clkrd, .instr (.brgld 9600), .instr .ueen] := by decide

theorem test_decode_dma :
    [(0x1000000003 : Word), 0x110000FFFF, 0x12FFFFFFFF, 0x130000ABCD, 0x14CAFEF00D, 0x1500000000,
      0x1600000000, 0x1700000000, 0x1800000000, 0x1900000000, 0x1A00000001, 0x1B00000000].map decode =
    [.instr (.fclr 3), .instr (.lenldTx 65535), .instr (.maldTx 0xFFFFFFFF), .instr (.lenldRx 43981),
      .instr (.maldRx 0xCAFEF00D), .instr .doneclr, .instr .drqen, .instr .tcien, .instr .chenRx,
      .instr .chenTx, .instr (.wdone true), .instr .drqdis] := by decide

theorem test_decode_completion_and_polling :
    [(0x2000000000 : Word), 0x2100000000, 0x30DEADBEEF, 0x3100000000, 0x3200000000,
      0x3320000100].map decode =
    [.instr .doneset, .instr .iret, .instr (.put 0xDEADBEEF), .instr .wtxe, .instr .wrxne,
      .instr (.get 0x20000100)] := by decide

/-- V8, V13, V14, V16, V20, V23. -/
theorem test_decode_operand_ends :
    [(0x01000000FF : Word), 0x08FFFFFFFF, 0x0800000000, 0x1000000001, 0x1000000002, 0x1100000000,
      0x1A00000000].map decode =
    [.instr (.bue 255), .instr (.brgld 4294967295), .instr (.brgld 0), .instr (.fclr 1),
      .instr (.fclr 2), .instr (.lenldTx 0), .instr (.wdone false)] := by decide

/-- V1 to V6. -/
theorem test_decode_reserved_opcodes :
    [(0x0000000000 : Word), 0xFFFFFFFFFF, 0x0A00000000, 0x0F00000000, 0x1C00000000, 0x1F00000000,
      0x2200000000, 0x2F00000000, 0x3400000000].all (fun w => decode w = .illegalOp) = true := by
  decide

/-- V9, V11, V15, V17, V19, V24, V26. -/
theorem test_decode_illegal_immediates :
    [(0x0100000100 : Word), 0x0200000001, 0x0280000000, 0x1000000000, 0x1000000004, 0x1000000007,
      0x1100010000, 0x1A00000002, 0x1A00000003, 0x2000000001, 0x3100000001].all
      (fun w => decode w = .illegalImm) = true := by decide

/-- The host's numbering is the word's own (R9). -/
theorem test_decodeTableWord :
    decodeTableWord 40 0x0800002580 = some (.brgld 9600) ∧ decodeTableWord 40 0x1000000004 = none := by
  decide

/-- From reset, a word that is placed runs as the first instruction: a thread instruction that is not
gated passes, a gated one and a handler one are reached and fault as R107 says. -/
theorem test_withFetchWord_runs_first :
    [0x0200000000, 0x0900000000, 0x2000000000].map
      (fun w => look (step (State.reset.withFetchWord 40 w)) (fun t => (t.pc, t.fault))) =
      [some (1, none), some (0, some .unclocked), some (0, some .context)] := by decide

/-! The assembler (R115) and the pseudo-instructions, on the words of P1, P2 and P4. -/

theorem test_assemble_operands :
    assemble "BUE end ; skip
      FCLR TX|RX
end: WDONE
      WDONE 1" = some [0x0100000001, 0x1000000003, 0x1A00000000, 0x1A00000001] := by decide

theorem test_assemble_numbers :
    assemble "BRGLD 9600
      PUT 0xDEADBEEF" = some [0x0800002580, 0x30DEADBEEF] ∧
    assemble "LENLD.TX 65536" = none ∧ assemble "FCLR 1" = none := by decide

/-- P1. -/
theorem test_configure_words :
    words (configure 9600) =
      [0x0100000004, 0x0200000000, 0x0300000000, 0x0400000000, 0x0500000000, 0x0600000000,
        0x0700000000, 0x0800002580, 0x0900000000] := by decide

/-- P2. -/
theorem test_transfer_words :
    (transfer .dma 0x20000000 0x20000100 1 false).map words =
      some [0x1000000003, 0x1100000001, 0x1220000000, 0x1300000001, 0x1420000100, 0x1500000000,
        0x1600000000, 0x1700000000, 0x1800000000, 0x1900000000, 0x1A00000000, 0x1B00000000] := by
  decide

/-- P4, its first two positions. -/
theorem test_polling_words :
    (transfer .poll 0x20000010 0x20000110 2 false).map words =
      some [0x3020000010, 0x3100000000, 0x3200000000, 0x3320000110,
        0x3020000011, 0x3100000000, 0x3200000000, 0x3320000111] := by decide

/-! The divisor (V30 to V58). -/

theorem test_divisor_V30_to_V41 :
    brgDivisor 8000000 9600 = 833 ∧ brgDivisor 8000000 115200 = 69 ∧
    brgDivisor 16000000 9600 = 1667 ∧ brgDivisor 16000000 115200 = 139 ∧
    brgDivisor 36000000 9600 = 3750 ∧ brgDivisor 36000000 115200 = 313 ∧
    brgDivisor 48000000 115200 = 417 ∧ brgDivisor 72000000 115200 = 625 ∧
    brgDivisor 1000000 9600 = 104 ∧ brgDivisor 1000000 115200 = 9 := by decide

theorem test_divisor_V42_to_V57 :
    brgDivisor 1 1 = 1 ∧ brgDivisor 1 2 = 1 ∧ brgDivisor 1 3 = 0 ∧ brgDivisor 3 2 = 2 ∧
    brgDivisor 5 2 = 3 ∧ brgDivisor 10 4 = 3 ∧ brgDivisor 100 3 = 33 ∧
    brgDivisor 131070 2 = 65535 ∧ brgDivisor 8000000 16000001 = 0 ∧
    brgDivisor 4294967295 4294967295 = 1 ∧ brgDivisor 4294967295 65537 = 65535 := by decide

/-! Peripheral Configuration (V60 to V79). -/

theorem test_bue_taken_V61 :
    look (exec (.bue 4) { configured with pc := 21 }) (·.pc) = some 26 := by decide

theorem test_bue_not_taken_V60 : look (exec (.bue 4) State.reset) (·.pc) = some 1 := by decide

theorem test_clken_V63 :
    look (exec .clken State.reset) (fun t => (t.clkOn, t.pc)) = some (true, 1) := by decide

theorem test_pincfg_unclocked_V64 :
    look (exec .pincfg State.reset) (fun t => (t.fault, t.pc)) = some (some .unclocked, 0) := by decide

theorem test_pincfg_V65 :
    look (exec .pincfg clocked) (fun t => (t.pinTxl, t.pinRxl)) = some (.afOdNoPull, .afOdNoPull) := by
  decide

theorem test_dmawire_busy_V66 :
    look (exec .dmawire { clocked with dmat := true, dmar := true }) (·.fault) =
      some (some .busy) := by decide

theorem test_dmawire_V67 :
    look (exec .dmawire clocked)
      (fun t => (t.wired, [t.tx.dir, t.rx.dir, t.tx.minc, t.rx.pinc], t.tx.maddr)) =
      some (true, [some true, some false, some true, some false], none) := by decide

theorem test_irqen_V68 :
    look (exec .irqen State.reset) (·.irqEn) = some true := by decide

theorem test_uedis_V70 :
    look (exec .uedis configured) (fun t => (t.ue, t.brgDiv, t.brgCnt, t.txe)) =
      some (false, some 833, some 833, true) := by decide

theorem test_uedis_busy_V71 :
    look (exec .uedis { configured with txe := false }) (·.fault) = some (some .busy) := by decide

theorem test_clkrd_V72 :
    look (exec .clkrd { State.reset with inputs := { Inputs.reset with clocks := [7999999] } })
      (fun t => (t.clkF, t.hist)) = some (some 8000000, [.clkRead 8000000]) := by decide

theorem test_brgld_V73 :
    look (exec (.brgld 9600) (sampled 8000000)) (fun t => (t.brgDiv, t.brgRate, t.hist)) =
      some (some 833, some 9600, [.divLoad 9600 8000000 833]) := by decide

/-- V76: the first failing check decides. -/
theorem test_brgld_torn_V76 :
    look (exec (.brgld 0) { clocked with ue := true }) (·.fault) = some (some .torn) := by decide

theorem test_ueen_V78 :
    look (exec .ueen { clocked with brgDiv := some 833 }) (fun t => (t.ue, t.brgCnt)) =
      some (true, some 833) := by decide

theorem test_ueen_no_reload_V79 :
    look (exec .ueen { configured with brgCnt := some 17 }) (·.brgCnt) = some (some 17) := by decide

/-! DMA Transceiver Path (V90 to V116). -/

theorem test_fclr_tx_V92 :
    look (exec (.fclr 1) { configured with
      tx := { configured.tx with tc := true }, rx := { configured.rx with tc := true } })
      (fun t => (t.tx.tc, t.rx.tc)) = some (false, true) := by decide

theorem test_lenldTx_V94 : look (exec (.lenldTx 3) configured) (·.tx.cnt) = some (some 3) := by decide

/-- V96: only the channel's own enable is checked. -/
theorem test_lenldTx_V96 :
    look (exec (.lenldTx 1) { configured with rx := { configured.rx with en := true } })
      (fun t => (t.fault, t.tx.cnt)) = some (none, some 1) := by decide

theorem test_maldTx_busy_V95 :
    look (exec (.maldTx 5) { configured with tx := { configured.tx with en := true } }) (·.fault) =
      some (some .busy) := by decide

theorem test_lenldRx_busy :
    look (exec (.lenldRx 1) flight) (fun t => (t.fault, t.rx.cnt)) = some (some .busy, some 3) := by
  decide

theorem test_maldRx_V97 :
    look (exec (.maldRx 0x20000100) configured) (fun t => (t.tx.maddr, t.rx.maddr)) =
      some (none, some 0x20000100) := by decide

theorem test_doneclr_V98 :
    look (exec .doneclr { configured with done := true }) (fun t => (t.done, t.hist)) =
      some (false, [.doneClr]) := by decide

theorem test_doneclr_busy_V99 :
    look (exec .doneclr { configured with rx := { configured.rx with en := true } }) (·.fault) =
      some (some .busy) := by decide

theorem test_drqen_V101 : look (exec .drqen clocked) (·.fault) = some (some .notConfigured) := by
  decide

theorem test_drqen_V102 :
    look (exec .drqen configured) (fun t => (t.dmat, t.dmar)) = some (true, true) := by decide

/-- V103: a stale flag raises the line at once. -/
theorem test_tcien_V103 :
    look (exec .tcien { configured with rx := { configured.rx with tc := true } })
      (fun t => (t.rxTcie, t.irqLine, irqEntryReady t)) = some (true, true, true) := by decide

theorem test_chenRx_wraps_V107 :
    look (exec .chenRx (loaded 0x20000000 2 0xFFFFFFFF 2)) (·.fault) = some (some .mem) := by decide

theorem test_chenRx_V108 :
    look (exec .chenRx (loaded 0x20000000 1 0xFFFFFFFF 1)) (·.rx.en) = some true := by decide

theorem test_chenTx_overlap_V110 :
    look (exec .chenTx (loaded 0x20000000 2 0x20000001 2)) (·.fault) = some (some .overlap) := by
  decide

theorem test_chenTx_adjacent_V111 :
    look (exec .chenTx (loaded 0x20000000 2 0x20000002 2)) (·.tx.en) = some true := by decide

theorem test_wdone_holds_V115 :
    look (exec (.wdone true) State.reset) (fun t => (t.pc, t.fault)) = some (0, none) := by decide

theorem test_wdone_passes_V114 :
    look (exec (.wdone true) { configured with done := true }) (·.pc) = some 10 := by decide

theorem test_drqdis_V116 :
    look (exec .drqdis flight) (fun t => (t.dmat, t.dmar, t.rxTcie, t.rx.en)) =
      some (false, false, true, true) := by decide

/-! Completion Synchronization (V130 to V133). -/

theorem test_doneset_context_V130 :
    look (exec .doneset configured) (·.fault) = some (some .context) := by decide

theorem test_doneset_V131 :
    look (exec .doneset (handler 0)) (fun t => (t.done, t.hpc, t.hist)) =
      some (true, 1, [.doneSet]) := by decide

/-- V93 and V132. -/
theorem test_fclr_handler :
    look (exec (.fclr 3) (handler 1)) (fun t => (t.fault, t.hpc)) = some (some .context, 1) ∧
    look (exec (.fclr 2) (handler 1)) (fun t => (t.rx.tc, t.tx.tc, t.hpc, t.irqLine)) =
      some (false, true, 2, false) := by decide

theorem test_iret_V133 :
    look (exec .iret (handler 2)) (fun t => (t.irqActive, t.hpc, t.pc)) = some (false, 2, 19) := by
  decide

/-! Polling (V140 to V150). -/

theorem test_put_V140 :
    look (exec (.put 0x20000000) configured) (fun t => (t.tdr, t.txe, t.hist)) =
      some (some 0xF0, false, [.memR .host 0x20000000 0xF0]) := by decide

theorem test_put_not_readable_V143 :
    look (exec (.put 0x20000100) configured) (fun t => (t.fault, t.txe)) = some (some .mem, true) := by
  decide

theorem test_wtxe_V144 :
    look (exec .wtxe { configured with txe := false }) (·.pc) = some 9 := by decide

theorem test_wrxne_V146 : look (exec .wrxne configured) (·.pc) = some 9 := by decide

theorem test_get_V147 :
    look (exec (.get 0x20000100) { configured with rdr := some 0xF0, rxne := true })
      (fun t => (t.byteAt 0x20000100, t.rxne, t.hist)) =
      some (0xF0, false, [.memW .host 0x20000100 0xF0]) := by decide

theorem test_get_empty_V148 :
    look (exec (.get 0x20000100) configured) (·.fault) = some (some .rdrEmpty) := by decide

/-! The agents (V134, V136, V160 to V176). -/

theorem test_irqEntry_V134 :
    look (step (offered .irqEntry landed)) (fun t => (t.irqActive, t.hpc, t.hist, t.pc)) =
      some (true, 0, [.irqEntry], 19) := by decide

theorem test_irqEntry_V136 :
    irqEntryReady { landed with rx := { landed.rx with tc := false } } = false := by decide

theorem test_shiftStart_V160 :
    look (step (offered .shiftStart { configured with tdr := some 0xF0, txe := false }))
      (fun t => (t.tsr, t.txe, t.busy, t.fdiv)) = some (some 0xF0, true, true, some 833) := by decide

theorem test_shiftComplete_V163 :
    look (step (offered .shiftComplete
      { configured with busy := true, tsr := some 0xF0, fdiv := some 833 }))
      (fun t => (t.rdr, t.rxne, t.busy, t.frames, t.hist)) =
      some (some 0xF0, true, false, 1, [.frame 0 0xF0 0xF0 833]) := by decide

theorem test_shiftComplete_waits_V167 : shiftCompleteReady flight = false := by decide

theorem test_dmaTx_V168 :
    look (step (offered .dmaTx { flight with
      txe := true, tx := { flight.tx with maddr := some 0x20000010, cnt := some 3, en := true, tc := false } }))
      (fun t => (t.tdr, t.tx.maddr, t.tx.cnt, [t.txe, t.tx.en, t.tx.tc])) =
      some (some 1, some 0x20000011, some 2, [false, true, false]) := by decide

theorem test_dmaRx_V172 :
    look (step (offered .dmaRx { flight with
      rdr := some 3, rx := { flight.rx with maddr := some 0x20000112, cnt := some 1 } }))
      (fun t => (t.byteAt 0x20000112, t.rx.maddr, t.rx.cnt, [t.rxne, t.rx.en, t.rx.tc, t.irqLine])) =
      some (3, some 0x20000113, some 0, [false, false, true, true]) := by decide

theorem test_arbiter_V174 :
    dmaTxReady { flight with
      txe := true, tx := { flight.tx with cnt := some 1, en := true }
      launch := { launch with arb := .rxFirst } } = false := by decide

/-- V175, its cycles 2, 3 and 4. -/
theorem test_brgTick_V175 :
    (fun n => look (brgTicks n { configured with brgDiv := some 3, brgCnt := some 3 })
      fun t => (t.brgCnt, t.baudTick)) <$> [2, 3, 4] =
      [some (some 1, false), some (some 3, true), some (some 2, false)] := by decide

/-! Witnesses: encoding. -/

theorem witness_DecodeInvertsEncode :
    [Instr.bue 255, .clken, .pincfg, .dmawire, .irqen, .uedis, .clkrd, .brgld 0xFFFFFFFF, .ueen,
      .fclr 1, .fclr 3, .lenldTx 0xFFFF, .maldTx 0xFFFFFFFF, .lenldRx 0, .maldRx 0].all
      (fun i => i.wellFormed = true) = true ∧
    [Instr.doneclr, .drqen, .tcien, .chenRx, .chenTx, .wdone true, .drqdis, .doneset, .iret,
      .put 0xFFFFFFFF, .wtxe, .wrxne, .get 0].all (fun i => i.wellFormed = true) = true := by decide

theorem witness_EncodeInvertsDecode :
    decode 0x01000000FF = .instr (.bue 255) ∧ decode 0x1000000001 = .instr (.fclr 1) ∧
    decode 0x33FFFFFFFF = .instr (.get 0xFFFFFFFF) := by decide

theorem witness_IllegalWords :
    decode 0x3400000000 = .illegalOp ∧ (Instr.fclr 1).opcode = (0x1000000000 : Word).extractLsb' 32 8 ∧
    decode 0x1000000000 = .illegalImm := by decide

theorem witness_MaskAndMatch :
    decode 0x1000000001 = .instr (.fclr 1) ∧
    (0x1000000003 : Word) &&& (Instr.fclr 1).maskWord = (Instr.fclr 1).matchWord ∧
    (0x1000000003 : Word).extractLsb' 0 2 ≠ 0#2 ∧ (Instr.fclr 1).opcode = 0x10 ∧
    (0x01000000FF : Word) &&& (Instr.bue 0).maskWord = (Instr.bue 0).matchWord := by decide

theorem witness_ExpansionsAccepted :
    (transfer .dma 0x20000000 0x20000100 65535 true).isSome = true ∧
    transfer .dma 0 0 0 false = some [] ∧
    (transfer .poll 0x20000000 0x20000100 1 false).isSome = true := by decide

/-- Adjacent buffers are taken, overlapping ones and one that runs past the end are refused. -/
theorem witness_PollRefusesWhereDmaFaults :
    [loaded 0x20000000 2 0x20000002 2, loaded 0x20000000 2 0x20000001 2,
      loaded 0x20000000 2 0xFFFFFFFF 2].all (fun s => (s.fault = none ∧ s.irqActive = false ∧
        s.clkOn = true) ∧ s.wired = true ∧ s.tx.en = false ∧ s.rx.en = false ∧
        s.tx.maddr = some 0x20000000 ∧ s.tx.cnt = some 2 ∧ s.rx.cnt = some 2) = true ∧
    pollRefuses 0x20000000 0x20000002 2 = false ∧ pollRefuses 0x20000000 0x20000001 2 = true ∧
    pollRefuses 0x20000000 0xFFFFFFFF 2 = true := by decide

/-- The first words that the illegal-immediate clauses of BUE, FCLR, LENLD.c and WDONE speak about. -/
theorem witness_illegal_immediates :
    ((0x0100000100 : Word).extractLsb' 32 8 = 0x01#8 ∧ (0x0100000100 : Word).extractLsb' 8 24 ≠ 0#24) ∧
    ((0x1000000000 : Word).extractLsb' 32 8 = 0x10#8 ∧ (0x1000000000 : Word).extractLsb' 0 2 = 0#2) ∧
    ((0x1000000007 : Word).extractLsb' 32 8 = 0x10#8 ∧ (0x1000000007 : Word).extractLsb' 2 30 ≠ 0#30) ∧
    ((0x1100010000 : Word).extractLsb' 32 8 = 0x11#8 ∧ (0x1100010000 : Word).extractLsb' 16 16 ≠ 0#16) ∧
    ((0x1300010000 : Word).extractLsb' 32 8 = 0x13#8 ∧ (0x1300010000 : Word).extractLsb' 16 16 ≠ 0#16) ∧
    ((0x1A00000002 : Word).extractLsb' 32 8 = 0x1A#8 ∧ (0x1A00000002 : Word).extractLsb' 1 31 ≠ 0#31) := by
  decide

/-! Witnesses: fetch. -/

theorem witness_StepRunsFetchedInstruction :
    (let s := running [0x0200000000] base;
      s.fault = none ∧ s.turn = .host ∧ decode 0x0200000000 = .instr .clken ∧ s.irqActive = false ∧
        s.launch.prog[s.pc]? = some 0x0200000000) ∧
    (let s := offered .host (handler 2);
      s.fault = none ∧ s.turn = .host ∧ decode 0x2100000000 = .instr .iret ∧ s.irqActive = true ∧
        [(0x2000000000 : Word), 0x1000000002, 0x2100000000][s.hpc]? = some 0x2100000000) ∧
    decodeTableWord 40 0x0200000000 = some .clken := by decide

theorem witness_HostStepChecksInOrder :
    (running [] base).turn = .host ∧
    ({ running [] base with fault := some .mem }).fault = some .mem ∧
    (running [] base).pc = (running [] base).launch.prog.length ∧
    (running [0] base).launch.prog[(running [0] base).pc]? = some 0 ∧ decode 0 = .illegalOp ∧
    (running [0x0200000001] base).launch.prog[0]? = some 0x0200000001 ∧
    decode 0x0200000001 = .illegalImm ∧
    (running [0x2000000000] base).launch.prog[0]? = some 0x2000000000 ∧
    decode 0x2000000000 = .instr .doneset ∧
    (running [0x0900000000] base).launch.prog[0]? = some 0x0900000000 ∧
    decode 0x0900000000 = .instr .ueen ∧ base.clkOn = false := by decide

theorem witness_HostStepChecksInOrder_context :
    ¬ Allowed .doneset (running [0x2000000000] base) ∧ Allowed .ueen (running [0x0900000000] base) ∧
    Instr.gated .ueen = true ∧ Allowed .iret (offered .host (handler 2)) := by
  unfold Allowed; decide

/-! Witnesses: Peripheral Configuration. -/

theorem witness_BueBranchesIfEnabled :
    (ThreadReady configured ∧ configured.ue = true) ∧ ThreadReady base ∧ base.ue = false := by
  unfold ThreadReady; decide

theorem witness_ClkenAndIrqenSetEnables : ThreadReady State.reset := by unfold ThreadReady; decide

theorem witness_ClkrdSamplesClock :
    ThreadReady State.reset ∧
    ThreadReady { State.reset with inputs := { Inputs.reset with clocks := [4294967294, 0] } } := by
  unfold ThreadReady; decide

/-- For PINCFG, DMAWIRE and UEDIS: clocks off, not idle for each reason of R65, idle. -/
theorem witness_idle_checks :
    (ThreadReady base ∧ base.clkOn = false) ∧ (GatedReady clocked ∧ clocked.idle = true) ∧
    (GatedReady configured ∧ configured.idle = true) ∧
    [{ configured with busy := true }, { configured with txe := false },
      { configured with rxne := true }, { configured with dmat := true },
      { configured with dmar := true },
      { configured with tx := { configured.tx with en := true } },
      { configured with rx := { configured.rx with en := true } }].all (fun s =>
        s.fault = none ∧ s.irqActive = false ∧ s.clkOn = true ∧ s.idle = false) = true := by
  unfold GatedReady ThreadReady; decide

theorem witness_PincfgProgramsBothLines :
    (ThreadReady base ∧ base.clkOn = false) ∧ (GatedReady flight ∧ flight.idle = false) ∧
    (GatedReady clocked ∧ clocked.idle = true) := by
  unfold GatedReady ThreadReady; decide

theorem witness_DmawireLoadsStaticFields :
    (ThreadReady base ∧ base.clkOn = false) ∧ (GatedReady flight ∧ flight.idle = false) ∧
    (GatedReady clocked ∧ clocked.idle = true) := witness_PincfgProgramsBothLines

theorem witness_UedisDisablesIdleEngine :
    (ThreadReady base ∧ base.clkOn = false) ∧ (GatedReady flight ∧ flight.idle = false) ∧
    (GatedReady clocked ∧ clocked.idle = true) := witness_PincfgProgramsBothLines

/-- Divisors 0, 1, 65535 and 65536, the rate 0, no sampled clock, the engine enabled. -/
theorem witness_BrgldLoadsRoundedDivisor :
    (GatedReady configured ∧ configured.ue = true) ∧
    (GatedReady clocked ∧ clocked.ue = false ∧ clocked.clkF = none) ∧
    (GatedReady (sampled 8000000) ∧ (sampled 8000000).ue = false ∧
      (sampled 8000000).clkF = some 8000000) ∧
    (16000001 : Rate) ≠ 0 ∧
    0 = ((8000000 : Freq).toNat + (16000001 : Rate).toNat / 2) / (16000001 : Rate).toNat ∧
    1 = ((8000000 : Freq).toNat + (16000000 : Rate).toNat / 2) / (16000000 : Rate).toNat ∧
    (GatedReady (sampled 65536) ∧ (sampled 65536).clkF = some 65536) ∧
    65535 = ((65535 : Freq).toNat + (1 : Rate).toNat / 2) / (1 : Rate).toNat ∧
    65536 = ((65536 : Freq).toNat + (1 : Rate).toNat / 2) / (1 : Rate).toNat ∧
    ThreadReady base ∧ base.clkOn = false := by
  unfold GatedReady ThreadReady; decide

theorem witness_UeenEnablesEngine :
    (ThreadReady base ∧ base.clkOn = false) ∧ (GatedReady clocked ∧ clocked.brgDiv = none) ∧
    (GatedReady configured ∧ configured.brgDiv = some 833 ∧ configured.ue = true) ∧
    (let s := { configured with ue := false };
      GatedReady s ∧ s.brgDiv = some 833 ∧ s.ue = false) := by
  unfold GatedReady ThreadReady; decide

theorem witness_DivisorIsNearest :
    0 < 9600 ∧ 2 ∣ 9600 ∧ 0 < 1 ∧ (brgDivisor 1 3 = 0 ∧ 2 * 1 < 3) ∧
    brgDivisor 1 2 = 1 := by decide

/-! Witnesses: DMA Transceiver Path. -/

theorem witness_FclrClearsSelectedFlags :
    (1 : BitVec 2) ≠ 0 ∧ (2 : BitVec 2) ≠ 0 ∧ (3 : BitVec 2) ≠ 0b10 ∧
    (base.fault = none ∧ base.clkOn = false) ∧
    ((handler 1).fault = none ∧ (handler 1).clkOn = true ∧ (handler 1).irqActive = true) ∧
    (landed.fault = none ∧ landed.clkOn = true ∧ landed.irqActive = false) := by decide

theorem witness_LoadTxDescriptor :
    (ThreadReady base ∧ base.clkOn = false) ∧ (GatedReady configured ∧ configured.tx.en = false) ∧
    (let s := { configured with tx := { configured.tx with en := true } };
      GatedReady s ∧ s.tx.en = true) := by
  unfold GatedReady ThreadReady; decide

theorem witness_LoadRxDescriptor :
    (ThreadReady base ∧ base.clkOn = false) ∧ (GatedReady configured ∧ configured.rx.en = false) ∧
    (GatedReady flight ∧ flight.rx.en = true) := by
  unfold GatedReady ThreadReady; decide

theorem witness_DoneclrResetsFlagBeforeArming :
    ((handler 0).fault = none ∧ (handler 0).irqActive = true) ∧
    (ThreadReady flight ∧ flight.rx.en = true) ∧
    (let s := { configured with tx := { configured.tx with en := true } };
      ThreadReady s ∧ s.tx.en = true) ∧
    ThreadReady base ∧ base.tx.en = false ∧ base.rx.en = false := by
  unfold ThreadReady; decide

theorem witness_RequestLinesAndSourceEnable :
    (ThreadReady base ∧ base.clkOn = false) ∧ (GatedReady clocked ∧ clocked.ue = false) ∧
    (GatedReady configured ∧ configured.ue = true) := by
  unfold GatedReady ThreadReady; decide

/-- A range that ends at `2^32` exactly, and one that ends one above it. -/
theorem witness_ChenRxStartsReceiver :
    (ThreadReady base ∧ base.clkOn = false) ∧ (GatedReady clocked ∧ clocked.wired = false) ∧
    (GatedReady configured ∧ configured.wired = true ∧ configured.rx.cnt = none) ∧
    (GatedReady flight ∧ flight.wired = true ∧ flight.rx.en = true ∧
      flight.rx.maddr = some 0x20000110 ∧ flight.rx.cnt = some 3) ∧
    (let s := loaded 0 1 0xFFFFFFFF 1;
      GatedReady s ∧ s.wired = true ∧ s.rx.maddr = some 0xFFFFFFFF ∧ s.rx.cnt = some 1 ∧
        s.rx.en = false ∧ (0xFFFFFFFF : Addr).toNat + (1 : Len).toNat ≤ 2 ^ 32) ∧
    (let s := loaded 0 1 0xFFFFFFFF 2;
      GatedReady s ∧ s.wired = true ∧ s.rx.maddr = some 0xFFFFFFFF ∧ s.rx.cnt = some 2 ∧
        s.rx.en = false ∧ 2 ^ 32 < (0xFFFFFFFF : Addr).toNat + (2 : Len).toNat) := by
  unfold GatedReady ThreadReady; decide

/-- Adjacent, overlapping by one byte, empty, of unequal lengths, past the end, and already started. -/
theorem witness_ChenTxStartsTransmitter :
    (ThreadReady base ∧ base.clkOn = false) ∧ (GatedReady clocked ∧ clocked.wired = false) ∧
    (GatedReady configured ∧ configured.wired = true ∧ configured.tx.cnt = none) ∧
    (let s := loaded 0x20000000 2 0x20000002 2;
      GatedReady s ∧ s.wired = true ∧ s.tx.maddr = some 0x20000000 ∧ s.tx.cnt = some 2 ∧
        s.rx.maddr = some 0x20000002 ∧ s.rx.cnt = some 2 ∧ s.tx.en = false) ∧
    (0x20000000 : Addr).toNat + (2 : Len).toNat ≤ (0x20000002 : Addr).toNat ∧
    ((0x20000000 : Addr).toNat < (0x20000001 : Addr).toNat + (2 : Len).toNat ∧
      (0x20000001 : Addr).toNat < (0x20000000 : Addr).toNat + (2 : Len).toNat) ∧
    (GatedReady (loaded 5 0 5 0) ∧ (loaded 5 0 5 0).tx.cnt = some 0) ∧
    (GatedReady (loaded 5 2 5 1) ∧ (2 : Len) ≠ 1) ∧
    (GatedReady (loaded 0xFFFFFFFF 2 5 2) ∧ 2 ^ 32 < (0xFFFFFFFF : Addr).toNat + (2 : Len).toNat) ∧
    (let s := { loaded 0 1 9 1 with tx := { (loaded 0 1 9 1).tx with en := true } };
      GatedReady s ∧ s.tx.en = true) := by
  unfold GatedReady ThreadReady; decide

theorem witness_WdoneWaitsForFlag :
    ((handler 0).fault = none ∧ (handler 0).irqActive = true) ∧
    (ThreadReady flight ∧ flight.done = false) ∧
    (let s := { landed with done := true };
      ThreadReady s ∧ s.done = true) := by
  unfold ThreadReady; decide

/-! Witnesses: Completion Synchronization and Polling. -/

theorem witness_DonesetAndIretInHandler :
    ThreadReady base ∧ HandlerReady (handler 0) ∧ HandlerReady (handler 2) := by
  unfold HandlerReady ThreadReady; decide

/-- The first and the last byte of the readable region, and the byte after it. -/
theorem witness_PutWritesTransmitRegister :
    (ThreadReady base ∧ base.clkOn = false) ∧ (GatedReady clocked ∧ clocked.ue = false) ∧
    (GatedReady flight ∧ flight.ue = true ∧ flight.txe = false) ∧
    (GatedReady configured ∧ configured.ue = true ∧ configured.txe = true) ∧
    configured.mayRead 0x20000000 = true ∧ configured.mayRead 0x2000001F = true ∧
    configured.mayRead 0x20000020 = false := by
  unfold GatedReady ThreadReady; decide

theorem witness_PollingWaits :
    (ThreadReady base ∧ base.clkOn = false) ∧
    (GatedReady configured ∧ configured.txe = true ∧ configured.rxne = false) ∧
    (GatedReady flight ∧ flight.txe = false ∧ flight.rxne = true) := by
  unfold GatedReady ThreadReady; decide

theorem witness_GetStoresReceivedByte :
    (ThreadReady base ∧ base.clkOn = false) ∧ (GatedReady configured ∧ configured.rxne = false) ∧
    (GatedReady flight ∧ flight.rxne = true ∧ flight.rdr = some 1) ∧
    flight.mayWrite 0x20000100 = true ∧ flight.mayWrite 0x2000011F = true ∧
    flight.mayWrite 0x20000120 = false := by
  unfold GatedReady ThreadReady; decide

/-! Witnesses: the frames. -/

theorem witness_ConfigurationFrame :
    [Instr.bue 4, .clken, .pincfg, .dmawire, .irqen, .uedis, .clkrd, .brgld 9600, .ueen].all
      (fun i => instrFamily i = .configuration ∧
        look (exec i { sampled 8000000 with brgDiv := some 833 }) (·.fault) = some none) = true := by
  decide

theorem witness_DmaPathFrame :
    [Instr.fclr 1, .lenldTx 1, .maldTx 0, .lenldRx 1, .maldRx 0, .doneclr, .drqen, .tcien, .chenRx,
      .chenTx, .wdone false, .drqdis].all
      (fun i => instrFamily i = .dma ∧
        look (exec i (loaded 0x20000000 1 0x20000100 1)) (·.fault) = some none) = true ∧
    look (exec (.fclr 2) (handler 1)) (·.fault) = some none ∧
    (1 : BitVec 2).getLsbD 1 = false ∧ (2 : BitVec 2).getLsbD 0 = false := by decide

theorem witness_CompletionAndPollingFrame :
    [Instr.doneset, .iret].all (fun i => instrFamily i = .completion ∧
      look (exec i (handler 0)) (·.fault) = some none) = true ∧
    [Instr.wtxe, .wrxne, .get 0x20000100].all (fun i => instrFamily i = .polling ∧
      look (exec i flight) (·.fault) = some none) = true ∧
    instrFamily (.put 0x20000000) = .polling ∧
    look (exec (.put 0x20000000) configured) (·.fault) = some none := by decide

/-! Witnesses: the agents. -/

/-- Ready, and each reason not to be. -/
theorem witness_ShiftStartBeginsFrame :
    (let s := offered .shiftStart { flight with busy := false };
      s.fault = none ∧ s.turn = .shiftStart ∧ s.ue = true ∧ s.txe = false ∧ s.busy = false ∧
        s.tdr = some 3 ∧ s.brgDiv = some 833) ∧
    (offered .shiftStart clocked).ue = false ∧ (offered .shiftStart configured).txe = true ∧
    (offered .shiftStart flight).busy = true := by decide

theorem witness_ShiftCompleteEndsFrame :
    (let s := offered .shiftComplete { flight with rxne := false };
      s.fault = none ∧ s.turn = .shiftComplete ∧ s.tsr = some 2 ∧ s.fdiv = some 833 ∧
        s.busy = true ∧ s.pinTxl = .afOdNoPull ∧ s.pinRxl = .afOdNoPull ∧
        busAnswer s.launch.bus s.frames 2 833 = some 2 ∧ s.reqRx = false ∧ s.rxne = false) ∧
    (let s := offered .shiftComplete { flight with dmar := false };
      s.reqRx = false ∧ s.rxne = true) ∧
    (let s := offered .shiftComplete { flight with launch := { launch with bus := .stalled } };
      busAnswer s.launch.bus s.frames 2 833 = none) ∧
    flight.reqRx = true ∧ configured.busy = false := by decide

theorem witness_isWired : flight.tx.isWired true ∧ flight.rx.isWired false :=
  ⟨⟨rfl, rfl, rfl, rfl⟩, ⟨rfl, rfl, rfl, rfl⟩⟩

/-- The last byte of the readable region next, and the last byte of the count. -/
def lastTxBeat : State :=
  offered .dmaTx { flight with
    txe := true, tx := { flight.tx with maddr := some 0x2000001F, cnt := some 1, en := true } }

theorem witness_DmaTxBeatMovesByte :
    (lastTxBeat.fault = none ∧ lastTxBeat.turn = .dmaTx ∧ lastTxBeat.dmat = true ∧
      lastTxBeat.txe = true ∧ lastTxBeat.tx.en = true ∧ lastTxBeat.tx.cnt = some 1 ∧ (1 : Len) ≠ 0 ∧
      lastTxBeat.tx.maddr = some 0x2000001F ∧
      ¬ (lastTxBeat.launch.arb = .rxFirst ∧ lastTxBeat.reqRx = true) ∧
      lastTxBeat.mayRead 0x2000001F = true ∧ lastTxBeat.mayRead 0x20000020 = false) ∧
    lastTxBeat.tx.isWired true ∧
    flight.txe = false ∧ flight.tx.cnt = some 0 ∧ configured.dmat = false :=
  ⟨by decide, witness_isWired.1, by decide, by decide, by decide⟩

/-- The last byte of the writable region next, and the last byte of the count. -/
def lastRxBeat : State :=
  offered .dmaRx { flight with rx := { flight.rx with maddr := some 0x2000011F, cnt := some 1 } }

theorem witness_DmaRxBeatLandsByte :
    (lastRxBeat.fault = none ∧ lastRxBeat.turn = .dmaRx ∧ lastRxBeat.dmar = true ∧
      lastRxBeat.rxne = true ∧ lastRxBeat.rx.en = true ∧ lastRxBeat.rx.cnt = some 1 ∧
      (1 : Len) ≠ 0 ∧ lastRxBeat.rx.maddr = some 0x2000011F ∧ lastRxBeat.rdr = some 1 ∧
      ¬ (lastRxBeat.launch.arb = .txFirst ∧ lastRxBeat.reqTx = true) ∧
      lastRxBeat.mayWrite 0x2000011F = true ∧ lastRxBeat.mayWrite 0x20000120 = false) ∧
    lastRxBeat.rx.isWired false ∧
    landed.rx.en = false ∧ landed.rx.cnt = some 0 ∧ landed.rxne = false ∧ configured.dmar = false :=
  ⟨by decide, witness_isWired.2, by decide, by decide, by decide, by decide⟩

/-- Both channels request, under each policy. -/
theorem witness_ArbiterGrantsOne :
    [ArbPolicy.any, .rxFirst, .txFirst].all (fun p =>
      let s := { flight with
        txe := true, tx := { flight.tx with cnt := some 1, en := true }
        launch := { launch with arb := p } };
      s.fault = none ∧ s.reqTx = true ∧ s.reqRx = true ∧ (offered .dmaTx s).turn = .dmaTx ∧
        (offered .dmaRx s).turn = .dmaRx) = true := by decide

theorem witness_IrqEntrySwitchesContext :
    (let s := offered .irqEntry landed;
      s.fault = none ∧ s.turn = .irqEntry ∧ s.rx.tc = true ∧ s.rxTcie = true ∧ s.irqEn = true ∧
        s.irqActive = false ∧ s.irqOk = true) ∧
    flight.rx.tc = false ∧ configured.rxTcie = false ∧ base.irqEn = false ∧
    (handler 0).irqActive = true ∧
    ({ landed with launch := { launch with irqOk := some false } }).irqOk = false := by decide

/-- Divisors 1 and 3. -/
theorem witness_BaudTickPeriod :
    [(1 : Divisor), 3].all (fun d =>
      let s := { configured with brgDiv := some d, brgCnt := some d };
      s.fault = none ∧ s.ue = true ∧ s.brgDiv = some d ∧ d ≠ 0 ∧ s.brgCnt = some d) = true ∧
    (1 ≤ 2 ∧ 2 < (3 : Divisor).toNat) ∧
    (offered .brgTick base).fault = none ∧ (offered .brgTick base).turn = .brgTick ∧
    base.ue = false := by decide

/-! Executions: there are some, an accepted program can have ended well, and V28 has none (R111). -/

/-- A block with no program and no byte to move: every step leaves it as it is. -/
theorem witness_Execution :
    Execution (fun n => { base with inputs := { Inputs.reset with steps := n } }) := by
  refine ⟨by decide, fun n => ?_⟩
  show actorStep (Config.nextActor n) _ = _
  cases Config.nextActor n <;> rfl

/-- The end of P1. -/
theorem test_endedWell_P1 :
    EndedWell { configured with launch := { launch with prog := words (configure 9600) } } := by
  unfold EndedWell; decide

theorem test_no_execution_V28 (t : State) :
    ¬ Reaches (running [0x0100000002, 0x0200000000] base) t := by
  rintro h
  exact absurd h.accepted (by decide)

/-! Witnesses: rules of the whole machine. Each step below is one the rule speaks about. -/

theorem witness_FaultRecordsAndStops :
    look (step (running [0] base)) (·.fault) = some (some .illegalOp) ∧
    ({ base with fault := some .illegalOp }).fault = some .illegalOp := by decide

theorem witness_SetupNeverUndone :
    look (step (running [0x0600000000] configured))
      (fun t => (t.clkOn, t.wired, t.irqEn, t.pinTxl, t.ue)) =
      some (true, true, true, .afOdNoPull, false) := by decide

theorem witness_DivisorChangesOnlyWhenDisabled :
    look (step (running [0x080001C200] (sampled 8000000))) (fun t => (t.brgDiv, t.brgRate)) =
      some (some 69, some 115200) := by decide

theorem witness_CompletionFlagSoleWriters :
    ((handler 0).done = false ∧
      look (step (offered .host (handler 0))) (·.done) = some true) ∧
    look (step (running [0x1500000000] { landed with done := true })) (·.done) = some false := by
  decide

theorem witness_CompletionOnlyAfterLanding :
    (let s := offered .dmaRx { flight with rx := { flight.rx with cnt := some 1 } };
      s.rx.tc = false ∧ look (step s) (·.rx.tc) = some true) := by decide

theorem witness_ContextSwitches :
    look (step (offered .irqEntry landed)) (·.irqActive) = some true ∧
    look (step (offered .host (handler 2))) (·.irqActive) = some false := by decide

theorem witness_HistoryGrowsLaunchStays :
    look (step (running [0x1500000000] landed)) (·.hist) = some [.doneClr] := by decide

theorem witness_MemoryOnlyWhereAdmitted :
    look (step (offered .dmaRx flight)) (fun t => (t.byteAt 0x20000110, t.hist)) =
      some (1, [.memW .dmaRx 0x20000110 1]) ∧ flight.byteAt 0x20000110 = 0 ∧
    look (step (running [0x3020000000] configured)) (·.hist) =
      some [.memR .host 0x20000000 0xF0] := by decide

/-- A memory that differs from the one of `base` at 0x30000000 only, outside `RD`. -/
theorem witness_UnreadableMemoryNotObserved :
    (∀ a, base.mayRead a = true →
      Memory.read [(0x20000000, 0xF0), (0x30000000, 1)] a.toNat = base.byteAt a) ∧
    base.mayRead 0x30000000 = false ∧
    look (step (running [0x0200000000] base)) (·.clkOn) = some true ∧
    step { base with fault := some .mem } = .fault .mem ∧
    step { running [] base with pc := 1 } = .refused .noWordAtCounter := by
  refine ⟨fun a h => ?_, by decide, by decide, rfl, rfl⟩
  have h' : a.toNat < 0x30000000 := by
    simp [State.mayRead, inRegions, base, launch, Region.holds] at h
    omega
  have hne : a.toNat ≠ 0x30000000 := by omega
  simp [Memory.read, State.byteAt, base, hne]

theorem witness_OverrunOnlyWhenUnarmed :
    look (step (offered .shiftComplete { flight with dmar := false })) (·.fault) =
      some (some .overrun) := by decide

/-! Witnesses: the invariants. -/

theorem witness_coherent_flight : Coherent flight where
  memory := by decide
  requestLines := rfl
  pins := rfl
  clock := by decide
  divisor := by decide
  counter := fun _ => ⟨833, 833, rfl, rfl, by decide, by decide⟩
  enabledClocked := fun _ => rfl
  wiredClocked := fun _ => rfl
  sourceClocked := fun _ => rfl
  tick := fun _ => rfl
  transmit := fun _ => rfl
  receive := fun _ => rfl
  frame := fun _ => ⟨rfl, rfl⟩
  active := fun _ => rfl
  wiring := fun _ => witness_isWired
  startedTx := fun h => absurd h (by decide)
  startedRx := fun _ => ⟨rfl, 0x20000110, 3, rfl, rfl, by decide⟩
  handlerCounter := by decide
  handler := fun h => absurd h (by decide)

theorem witness_coherent_handler (k : Nat) (hk : k ≤ 2) : Coherent (handler k) where
  memory := by show Memory.wf landed.mem = true; decide
  requestLines := rfl
  pins := rfl
  clock := by show landed.clkF ≠ some 0; decide
  divisor := by show landed.brgDiv ≠ some 0; decide
  counter := fun _ => ⟨833, 833, rfl, rfl, by decide, by decide⟩
  enabledClocked := fun _ => rfl
  wiredClocked := fun _ => rfl
  sourceClocked := fun _ => rfl
  tick := fun _ => rfl
  transmit := fun _ => rfl
  receive := fun h => absurd h (by show ¬ landed.rxne = true; decide)
  frame := fun h => absurd h (by show ¬ landed.busy = true; decide)
  active := fun _ => rfl
  wiring := fun _ => ⟨⟨rfl, rfl, rfl, rfl⟩, ⟨rfl, rfl, rfl, rfl⟩⟩
  startedTx := fun h => absurd h (by show ¬ landed.tx.en = true; decide)
  startedRx := fun h => absurd h (by show ¬ landed.rx.en = true; decide)
  handlerCounter := hk
  handler := fun _ => ⟨rfl, rfl, fun h => by simpa [Sys2Proof.Tests.handler] using h,
    fun h => by simpa [Sys2Proof.Tests.handler] using h⟩

theorem coherent_offered (a : Actor) (s : State) (h : Coherent s) : Coherent (offered a s) :=
  { h with }

/-- One step of each agent from a coherent state. -/
theorem witness_AgentFrame :
    (∀ a, Coherent (offered a flight)) ∧
    [Actor.shiftStart, .shiftComplete, .dmaTx, .dmaRx, .irqEntry, .brgTick].all (fun a =>
      (offered a flight).turn = a ∧ look (step (offered a flight)) (·.fault) = some none) = true ∧
    look (step (offered .dmaRx flight)) (·.rx.cnt) = some (some 2) :=
  ⟨fun a => coherent_offered a _ witness_coherent_flight, by decide, by decide⟩

theorem witness_StepKeepsCoherent :
    Coherent (offered .dmaRx flight) ∧ ∃ t, step (offered .dmaRx flight) = .next t :=
  ⟨coherent_offered _ _ witness_coherent_flight, _, rfl⟩

theorem witness_CounterStaysInProgram :
    (let s := running [0x0100000001, 0x0200000000] configured;
      programAccepted s.launch.prog = true ∧ s.pc ≤ s.launch.prog.length ∧
        look (step s) (·.pc) = some 2) := by decide

theorem witness_EnginesNeverNeedNone :
    Coherent (offered .dmaRx flight) ∧ (offered .dmaRx flight).turn ≠ .host :=
  ⟨coherent_offered _ _ witness_coherent_flight, by decide⟩

theorem witness_HandlerRunsToReturn (k : Nat) (hk : k ≤ 2) :
    Coherent (offered .host (handler k)) ∧ (offered .host (handler k)).fault = none ∧
      (offered .host (handler k)).irqActive = true ∧ (offered .host (handler k)).turn = .host ∧
      (offered .host (handler k)).hpc = k :=
  ⟨coherent_offered _ _ (witness_coherent_handler k hk), rfl, rfl, rfl, rfl⟩

theorem witness_FrameKeepsItsDivisor :
    Coherent (offered .dmaRx flight) ∧ (offered .dmaRx flight).busy = true ∧
      look (step (offered .dmaRx flight)) (·.busy) = some true :=
  ⟨coherent_offered _ _ witness_coherent_flight, by decide, by decide⟩

theorem witness_PipelineStaysBalanced :
    InFlight (offered .dmaRx flight) ∧ (offered .dmaRx flight).turn ≠ .host ∧
      ∃ t, step (offered .dmaRx flight) = .next t :=
  ⟨⟨0, 3, rfl, rfl, by decide, rfl, fun _ => rfl⟩, by decide, _, rfl⟩

/-- The image of the transaction of `flight`: 1, 2, 3. -/
def image (i : Nat) : Byte := BitVec.ofNat 8 (i + 1)

/-- With every byte inside the engine, and with every byte landed. -/
theorem witness_LoopbackEchoesInOrder :
    (Echoing 0x20000010 0x20000110 3 image (offered .dmaRx flight) ∧
      (offered .dmaRx flight).turn ≠ .host ∧ ∃ t, step (offered .dmaRx flight) = .next t) ∧
    Echoing 0x20000010 0x20000110 3 image landed ∧ landed.rx.cnt = some 0 :=
  ⟨⟨{ bus := fun _ _ _ => rfl
      placed := by decide
      disjoint := by decide
      wiring := witness_isWired
      progress := ⟨0, 3, rfl, rfl, by decide, by decide, rfl, fun _ => rfl, by decide, by decide,
        by decide, by decide, fun _ => rfl, fun _ => ⟨rfl, rfl⟩, fun _ => rfl⟩ },
      by decide, _, rfl⟩,
    { bus := fun _ _ _ => rfl
      placed := by decide
      disjoint := by decide
      wiring := ⟨⟨rfl, rfl, rfl, rfl⟩, ⟨rfl, rfl, rfl, rfl⟩⟩
      progress := ⟨0, 0, rfl, rfl, by decide, by decide, rfl, by decide, by decide, by decide,
        by decide, by decide, by decide, by decide, by decide⟩ },
    rfl⟩

end Sys2Proof.Tests
end

section
/-! PROOFS of the family 00_scope: what a step does to the fault record (R33, R281, R282), and that the
agents other than HOST find every value they need in a coherent state (R11, R244). -/

namespace Sys2Proof.Machine

/-! The fault record (R281). -/

/-- An instruction that did not fault leaves the record as it was. -/
theorem Effect.fault_eq {i : Instr} {s t : State} (h : Effect s t i) : t.fault = s.fault := by
  cases i with
  | bue | clken | irqen | clkrd | doneset | iret => obtain ⟨-, rfl⟩ := h; rfl
  | fclr | tcien | drqdis => obtain ⟨-, -, rfl⟩ := h; rfl
  | pincfg | dmawire | uedis | lenldTx | maldTx | lenldRx | maldRx | doneclr | drqen =>
    obtain ⟨-, -, -, rfl⟩ := h; rfl
  | chenRx | chenTx | put => obtain ⟨-, -, -, -, -, rfl⟩ := h; rfl
  | brgld => obtain ⟨-, -, -, -, -, -, -, rfl⟩ := h; rfl
  | ueen => obtain ⟨-, -, -, -, ⟨-, rfl⟩ | ⟨-, rfl⟩⟩ := h <;> rfl
  | wdone => obtain ⟨-, ⟨-, rfl⟩ | ⟨-, rfl⟩⟩ := h <;> rfl
  | wtxe | wrxne => obtain ⟨-, -, ⟨-, rfl⟩ | ⟨-, rfl⟩⟩ := h <;> rfl
  | get => obtain ⟨-, -, -, -, -, -, rfl⟩ := h; rfl

/-- The step of an agent other than HOST faulted, or left the record as it was. -/
theorem agentStep_fault {a : Actor} {s t : State} (ha : a ≠ .host) (h : actorStep a s = .next t) :
    Faulted s t ∨ t.fault = s.fault := by
  obtain h | rfl | ⟨-, -, -, -, -, -, rfl⟩ | ⟨-, -, -, -, -, -, -, -, -, rfl⟩ |
    ⟨-, -, -, -, -, -, rfl⟩ | ⟨-, -, -, -, -, -, -, -, rfl⟩ | ⟨-, -, rfl⟩ |
    ⟨-, -, ⟨-, -, -, -, -, rfl⟩ | ⟨-, -, -, rfl⟩⟩ := agentStep_next ha h
  case inl => exact .inl h
  all_goals exact .inr rfl

/-- A step of the machine that answers a next state faulted, or ends with no fault recorded. -/
theorem step_faulted_or_none {s t : State} (h : step s = .next t) :
    Faulted (useChoice s) t ∨ t.fault = none := by
  obtain ⟨hf, ht | rfl | ⟨-, i, -, he⟩ | ⟨ha, hs⟩⟩ := step_cases h
  · exact .inl ht
  · exact .inr hf
  · exact .inr (he.fault_eq.trans hf)
  · exact (agentStep_fault ha hs).imp_right fun h => h.trans hf

/-- Settles O43: a step that does not fault ends with an empty record, so a recorded fault is the
step's only change. -/
theorem faultRecordsAndStops : Obligations.FaultRecordsAndStops := by
  refine ⟨fun s t f h ht => ⟨(step_next h).1, ?_⟩, fun s f => step_faulted⟩
  obtain ⟨g, rfl⟩ | hn := step_faulted_or_none h
  · obtain rfl : g = f := Option.some.inj ht
    rfl
  · exact absurd (hn.symm.trans ht) nofun

/-! Answers without a missing value (R11). -/

/-- An answer that is not refused and does not record FAULT_UNINIT: the two conclusions of
`Obligations.EnginesNeverNeedNone` about a step. -/
def LacksNothing (r : Result) : Prop :=
  (∀ q, r ≠ .refused q) ∧ ∀ t, r = .next t → t.fault ≠ some .uninit

theorem LacksNothing.next {t : State} (h : t.fault ≠ some .uninit) : LacksNothing (.next t) :=
  ⟨nofun, fun _ ht => Host.Outcome.next.inj ht ▸ h⟩

theorem LacksNothing.fault (f : Fault) : LacksNothing (.fault f) :=
  ⟨nofun, fun _ h => nomatch h⟩

/-- A check of another fault, before an answer that lacks nothing once the check has passed. -/
theorem LacksNothing.require {ok : Bool} {f : Fault} {s : State} {r : Result} (hf : f ≠ .uninit)
    (h : LacksNothing r) : LacksNothing (require ok f s r) := by
  cases ok
  · exact .next fun hu => hf (Option.some.inj hu)
  · exact h

/-- A guarded step, whose action lacks nothing when the guard holds. -/
theorem LacksNothing.guarded {ready : Bool} {s : State} {r : Result} (hs : s.fault = none)
    (h : ready = true → LacksNothing r) : LacksNothing (guarded ready r s) := by
  cases ready
  · exact .next (by simp [hs])
  · exact h rfl

/-! The values a coherent state holds for each agent. -/

/-- A wired and loaded channel has its whole descriptor, with the direction it was wired for. -/
theorem Channel.isWired.loaded {c : Channel} {dir : Bool} (hw : c.isWired dir) (hl : c.isLoaded) :
    ∃ d, c.loaded = some d ∧ d.dir = dir := by
  obtain ⟨hp, hd, hmi, hpi⟩ := hw
  obtain ⟨a, n, ha, hn, -⟩ := hl
  exact ⟨⟨Config.drAddr, a, n, dir, true, false⟩,
    Channel.loaded_eq_some.mpr ⟨hp, ha, hn, hd, hmi, hpi⟩, rfl⟩

/-- SHIFT.start finds its byte and its divisor (R244). -/
theorem Coherent.shiftStart_values {s : State} (h : Coherent s) (hr : shiftStartReady s = true) :
    ∃ b d, s.tdr = some b ∧ s.brgDiv = some d := by
  obtain ⟨-, hu, hx, -⟩ := shiftStartReady_iff.mp hr
  obtain ⟨b, hb⟩ := Option.isSome_iff_exists.mp (h.transmit hx)
  obtain ⟨-, d, -, hd, -⟩ := h.counter hu
  exact ⟨b, d, hb, hd⟩

/-- A frame on the wire has its byte and its divisor (R242, R246). -/
theorem Coherent.shiftComplete_values {s : State} (h : Coherent s) (hb : s.busy = true) :
    ∃ b d, s.tsr = some b ∧ s.fdiv = some d := by
  obtain ⟨ht, hd⟩ := h.frame hb
  obtain ⟨b, hb'⟩ := Option.isSome_iff_exists.mp ht
  obtain ⟨-, d, -, hd', -⟩ := h.counter (h.active (.inl hb))
  exact ⟨b, d, hb', hd.trans hd'⟩

/-- A started TX channel has its descriptor (R171, R250). -/
theorem Coherent.dmaTx_values {s : State} (h : Coherent s) (he : s.tx.en = true) :
    ∃ d, s.tx.loaded = some d ∧ d.dir = true :=
  have ⟨hw, hl⟩ := h.startedTx he
  (h.wiring hw).1.loaded hl

/-- A started RX channel has its descriptor (R170, R252). -/
theorem Coherent.dmaRx_values {s : State} (h : Coherent s) (he : s.rx.en = true) :
    ∃ d, s.rx.loaded = some d ∧ d.dir = false :=
  have ⟨hw, hl⟩ := h.startedRx he
  (h.wiring hw).2.loaded hl

/-! The agents' actions from a coherent state with no fault. -/

theorem Coherent.shiftStart_lacksNothing {s : State} (h : Coherent s)
    (hr : shiftStartReady s = true) : LacksNothing (shiftStart s) := by
  have hf := (shiftStartReady_iff.mp hr).1
  obtain ⟨b, d, hb, hd⟩ := h.shiftStart_values hr
  simp only [shiftStart, hb, hd]
  exact .next (by simp [hf])

theorem Coherent.shiftComplete_lacksNothing {s : State} (h : Coherent s)
    (hr : shiftCompleteReady s = true) : LacksNothing (shiftComplete s) := by
  obtain ⟨hf, hbusy, -, -, ha, -⟩ := shiftCompleteReady_iff.mp hr
  obtain ⟨b, d, hb, hd⟩ := h.shiftComplete_values hbusy
  simp only [frameAnswered, hb, hd] at ha
  obtain ⟨r, ha⟩ := Option.isSome_iff_exists.mp ha
  simp only [shiftComplete, hb, hd, ha]
  exact .require nofun (.next (by simp [hf]))

theorem Coherent.dmaTxBeat_lacksNothing {s : State} (h : Coherent s)
    (hr : dmaTxReady s = true) : LacksNothing (dmaTxBeat s) := by
  obtain ⟨hf, hq, -⟩ := dmaTxReady_iff.mp hr
  obtain ⟨-, -, he, -⟩ := reqTx_iff.mp hq
  obtain ⟨d, hl, hd⟩ := h.dmaTx_values he
  simp only [dmaTxBeat, hl, hd, if_true]
  exact .require nofun (.next (by simp [hf]))

theorem Coherent.dmaRxBeat_lacksNothing {s : State} (h : Coherent s)
    (hr : dmaRxReady s = true) : LacksNothing (dmaRxBeat s) := by
  obtain ⟨hf, hq, -⟩ := dmaRxReady_iff.mp hr
  obtain ⟨-, hx, he, -⟩ := reqRx_iff.mp hq
  obtain ⟨d, hl, hd⟩ := h.dmaRx_values he
  obtain ⟨b, hb⟩ := Option.isSome_iff_exists.mp (h.receive hx)
  simp only [dmaRxBeat, hl, hb, hd, Bool.false_eq_true, if_false]
  exact .require nofun (.next (by simp [hf]))

theorem Coherent.brgTick_lacksNothing {s : State} (h : Coherent s)
    (hr : brgTickReady s = true) : LacksNothing (brgTick s) := by
  obtain ⟨hf, hu⟩ := brgTickReady_iff.mp hr
  obtain ⟨c, d, hc, hd, -⟩ := h.counter hu
  simp only [brgTick, hc, hd]
  split
  · exact .next (by simp [hf])
  · exact .next (by simp [hf])

/-- Every agent but HOST: its guard brings the values its action needs. -/
theorem Coherent.actorStep_lacksNothing {s : State} (h : Coherent s) (hf : s.fault = none)
    {a : Actor} (ha : a ≠ .host) : LacksNothing (actorStep a s) := by
  cases a with
  | host => exact absurd rfl ha
  | shiftStart => exact .guarded hf h.shiftStart_lacksNothing
  | shiftComplete => exact .guarded hf h.shiftComplete_lacksNothing
  | dmaTx => exact .guarded hf h.dmaTxBeat_lacksNothing
  | dmaRx => exact .guarded hf h.dmaRxBeat_lacksNothing
  | irqEntry => exact .guarded hf fun _ => .next (by simp [hf])
  | brgTick => exact .guarded hf h.brgTick_lacksNothing

/-- Settles O56: a recorded fault stops the machine, and without one the agent offered the step finds
every value its guard lets it need. -/
theorem enginesNeverNeedNone : Obligations.EnginesNeverNeedNone := by
  intro s h ht
  change LacksNothing (step s)
  cases hf : s.fault with
  | some f => exact step_faulted hf ▸ .fault f
  | none => exact step_eq hf ▸ h.useChoice.actorStep_lacksNothing hf ht

end Sys2Proof.Machine
end

section
/-! PROOFS of the family 10_state: what each step leaves unchanged (R66), who may write an element (R67,
R68, R83, R205), and the invariants every step keeps (R62, R63, R111 and the coherence of the state). -/

namespace Sys2Proof.Machine

/-! Frames (R66). -/

/-- From `s` to `t` only the elements of a list may have changed: the run's parameters stay, the model's
inputs are drawn from only where CLK.F is written, and the history has only grown. -/
structure ChangesOnly (writes : List Element) (s t : State) : Prop where
  /-- The elements outside the list. -/
  elements : ∀ e, e ∉ writes → e.same s t
  /-- The parameters of the run (R63). -/
  launch : t.launch = s.launch
  /-- The model's inputs; only CLKRD draws an answer (R137). -/
  inputs : Element.clkF ∉ writes → t.inputs = s.inputs
  /-- The history (R62). -/
  history : s.hist <+: t.hist

theorem ChangesOnly.refl (writes : List Element) (s : State) : ChangesOnly writes s s :=
  ⟨fun e _ => Element.same_refl s e, rfl, fun _ => rfl, List.prefix_rfl⟩

/-- A step that faults changes the fault record alone (R281). -/
theorem Faulted.changesOnly {s t : State} {writes : List Element} (h : Faulted s t)
    (hw : Element.fault ∈ writes) : ChangesOnly writes s t := by
  obtain ⟨f, rfl⟩ := h
  exact ⟨fun e he => Element.same_faulted f s fun h => he (h ▸ hw), rfl, fun _ => rfl,
    List.prefix_rfl⟩

/-- An instruction that did not fault changes what R66 lists for it. -/
theorem Effect.changesOnly {i : Instr} {s t : State} (h : Effect s t i) :
    ChangesOnly (instrWrites i) s t := by
  cases i
  case' bue | clken | irqen | clkrd | doneset | iret => obtain ⟨ha, rfl⟩ := h
  case' fclr | tcien | drqdis => obtain ⟨ha, -, rfl⟩ := h
  case' pincfg | dmawire | uedis | lenldTx | maldTx | lenldRx | maldRx | doneclr | drqen =>
    obtain ⟨ha, -, -, rfl⟩ := h
  case' chenRx | chenTx | put => obtain ⟨ha, -, -, -, -, rfl⟩ := h
  case' brgld => obtain ⟨ha, -, -, -, -, -, -, rfl⟩ := h
  case' ueen => obtain ⟨ha, -, -, -, ⟨-, rfl⟩ | ⟨-, rfl⟩⟩ := h
  case' wdone => obtain ⟨ha, ⟨-, rfl⟩ | ⟨-, rfl⟩⟩ := h
  case' wtxe | wrxne => obtain ⟨ha, -, ⟨-, rfl⟩ | ⟨-, rfl⟩⟩ := h
  case' get => obtain ⟨ha, -, -, -, -, -, rfl⟩ := h
  all_goals exact {
    elements := fun e he => by
      cases e <;> simp [instrWrites, Element.same, State.byteAt, ha] at he ⊢
    launch := rfl
    inputs := by simp [instrWrites]
    history := by simp }

/-- Every step of an instruction. -/
theorem exec_changesOnly {i : Instr} {s t : State} (h : exec i s = .next t) :
    ChangesOnly (instrWrites i) s t :=
  (exec_next h).2.elim (fun hf => hf.changesOnly (by cases i <;> simp [instrWrites]))
    Effect.changesOnly

/-- Every step of an agent other than HOST. A beat writes the peripheral address of its channel by
the increment bit; that a wired channel's stays is `Coherent.agentStep_paddr`. -/
theorem agentStep_changesOnly {a : Actor} {s t : State} (ha : a ≠ .host)
    (h : actorStep a s = .next t) :
    ChangesOnly (.txPaddr :: .rxPaddr :: agentWrites a) s t := by
  obtain hf | rfl | ⟨rfl, -, -, -, -, -, rfl⟩ | ⟨rfl, -, -, -, -, -, -, -, -, rfl⟩ |
    ⟨rfl, -, -, -, -, -, rfl⟩ | ⟨rfl, -, -, -, -, -, -, -, rfl⟩ | ⟨rfl, -, rfl⟩ |
    ⟨rfl, -, ⟨-, -, -, -, -, rfl⟩ | ⟨-, -, -, rfl⟩⟩ := agentStep_next ha h
  case inl => exact hf.changesOnly (by cases a <;> simp [agentWrites] at ha ⊢)
  case inr.inl => exact .refl _ _
  all_goals exact {
    elements := fun e he => by
      cases e <;> simp [agentWrites, Element.same, State.byteAt] at he ⊢
    launch := rfl
    inputs := fun _ => rfl
    history := by simp }

/-! The bytes of MEM and the counters. -/

/-- Only GET may write MEM (R66). -/
theorem get_of_writes_mem {i : Instr} (h : Element.mem ∈ instrWrites i) : ∃ a, i = .get a := by
  cases i <;> simp [instrWrites] at h ⊢

/-- An instruction leaves every byte but the one at GET's operand. -/
theorem exec_byteAt {i : Instr} {s t : State} (h : exec i s = .next t) {a : Addr}
    (ha : ∀ addr, i = .get addr → a ≠ addr) : t.byteAt a = s.byteAt a := by
  by_cases hm : Element.mem ∈ instrWrites i
  · obtain ⟨addr, rfl⟩ := get_of_writes_mem hm
    obtain ⟨-, ⟨f, rfl⟩ | ⟨-, -, -, -, b, -, rfl⟩⟩ := exec_next h
    · rfl
    · exact storeByte_byteAt_other .host b s (ha addr rfl)
  · exact (exec_changesOnly h).elements .mem hm a

/-- What an instruction does to the counters: it keeps both, advances the one of its context, or is
a BUE that branches (R25, R26, R130, R131). -/
theorem Effect.counters {i : Instr} {s t : State} (h : Effect s t i) :
    (t.pc = s.pc ∧ t.hpc = s.hpc) ∨ (t.pc = (advance s).pc ∧ t.hpc = (advance s).hpc) ∨
      (s.irqActive = false ∧ ∃ k, i = .bue k ∧ t.pc = branchTarget s.pc k ∧ t.hpc = s.hpc) := by
  cases i with
  | bue k =>
    obtain ⟨ha, rfl⟩ := h
    cases hu : s.ue
    · exact .inr (.inl (by simp [ha]))
    · exact .inr (.inr ⟨ha, k, rfl, by simp⟩)
  | clken | irqen | clkrd | doneset => obtain ⟨-, rfl⟩ := h; exact .inr (.inl ⟨rfl, rfl⟩)
  | iret => obtain ⟨-, rfl⟩ := h; exact .inl ⟨rfl, rfl⟩
  | fclr | tcien | drqdis => obtain ⟨-, -, rfl⟩ := h; exact .inr (.inl ⟨rfl, rfl⟩)
  | pincfg | dmawire | uedis | lenldTx | maldTx | lenldRx | maldRx | doneclr | drqen =>
    obtain ⟨-, -, -, rfl⟩ := h; exact .inr (.inl ⟨rfl, rfl⟩)
  | chenRx | chenTx | put => obtain ⟨-, -, -, -, -, rfl⟩ := h; exact .inr (.inl ⟨rfl, rfl⟩)
  | brgld => obtain ⟨-, -, -, -, -, -, -, rfl⟩ := h; exact .inr (.inl ⟨rfl, rfl⟩)
  | ueen =>
    obtain ⟨-, -, -, -, ⟨-, rfl⟩ | ⟨-, rfl⟩⟩ := h
    · exact .inr (.inl ⟨rfl, rfl⟩)
    · exact .inr (.inl ⟨rfl, rfl⟩)
  | wdone =>
    obtain ⟨-, ⟨-, rfl⟩ | ⟨-, rfl⟩⟩ := h
    · exact .inr (.inl ⟨rfl, rfl⟩)
    · exact .inl ⟨rfl, rfl⟩
  | wtxe | wrxne =>
    obtain ⟨-, -, ⟨-, rfl⟩ | ⟨-, rfl⟩⟩ := h
    · exact .inr (.inl ⟨rfl, rfl⟩)
    · exact .inl ⟨rfl, rfl⟩
  | get => obtain ⟨-, -, -, -, -, -, rfl⟩ := h; exact .inr (.inl ⟨rfl, rfl⟩)

/-- While the handler runs no instruction moves the thread's counter (R25, R205). -/
theorem Effect.pc_eq {i : Instr} {s t : State} (h : Effect s t i) (ha : s.irqActive = true) :
    t.pc = s.pc := by
  obtain ⟨hp, -⟩ | ⟨hp, -⟩ | ⟨hn, -⟩ := h.counters
  · exact hp
  · simpa [ha] using hp
  · exact absurd (hn.symm.trans ha) nofun

/-- While the thread runs no instruction moves the handler's counter (R26). -/
theorem Effect.hpc_eq {i : Instr} {s t : State} (h : Effect s t i) (ha : s.irqActive = false) :
    t.hpc = s.hpc := by
  obtain ⟨-, hp⟩ | ⟨-, hp⟩ | ⟨-, -, -, -, hp⟩ := h.counters
  · exact hp
  · simpa [ha] using hp
  · exact hp

/-- An instruction leaves the counter of the context that does not run. -/
theorem exec_counters {i : Instr} {s t : State} (h : exec i s = .next t) :
    (s.irqActive = true → t.pc = s.pc) ∧ (s.irqActive = false → t.hpc = s.hpc) := by
  obtain ⟨-, ⟨f, rfl⟩ | he⟩ := exec_next h
  · exact ⟨fun _ => rfl, fun _ => rfl⟩
  · exact ⟨he.pc_eq, he.hpc_eq⟩

/-- FCLR leaves the flag of a channel its mask does not select (R161). -/
theorem exec_fclr_keeps_unselected {m : BitVec 2} {s t : State} (h : exec (.fclr m) s = .next t) :
    (m.getLsbD 0 = false → t.tx.tc = s.tx.tc) ∧ (m.getLsbD 1 = false → t.rx.tc = s.rx.tc) := by
  obtain ⟨-, ⟨f, rfl⟩ | ⟨-, -, rfl⟩⟩ := exec_next h
  · exact ⟨fun _ => rfl, fun _ => rfl⟩
  · exact ⟨fun hm => by simp [show maskTx m = false from hm],
      fun hm => by simp [show maskRx m = false from hm]⟩

/-- Settles O32: the frame of every instruction, in a family without GET. -/
theorem configurationFrame : Obligations.ConfigurationFrame := by
  intro i s t hi h
  have hc := exec_changesOnly h
  refine ⟨hc.elements, fun a => exec_byteAt h ?_, hc.launch, fun hn => hc.inputs ?_⟩
  · rintro addr rfl
    cases hi
  · cases i <;> simp [instrWrites, instrFamily] at hi hn ⊢

/-- Settles O33: the frame of every instruction, with the rules of FCLR and of the counters. -/
theorem dmaPathFrame : Obligations.DmaPathFrame := by
  intro i s t hi h
  have hc := exec_changesOnly h
  refine ⟨hc.elements, fun a => exec_byteAt h ?_, hc.launch, hc.inputs ?_, ?_, ?_, exec_counters h⟩
  · rintro addr rfl
    cases hi
  · cases i <;> simp [instrWrites, instrFamily] at hi ⊢
  · rintro m rfl
    exact (exec_fclr_keeps_unselected h).1
  · rintro m rfl
    exact (exec_fclr_keeps_unselected h).2

/-- Settles O34: the frame of every instruction, GET's address aside. -/
theorem completionAndPollingFrame : Obligations.CompletionAndPollingFrame := by
  intro i s t hi h
  have hc := exec_changesOnly h
  refine ⟨hc.elements, fun a => exec_byteAt h, hc.launch, hc.inputs ?_⟩
  cases i <;> simp [instrWrites, instrFamily] at hi ⊢

/-! The frame of the agents (R66), from a coherent state. -/

/-- A beat keeps the static fields of a wired channel: its peripheral side does not increment (R51). -/
theorem Channel.isWired.afterBeat {c : Channel} {dir : Bool} {d : Descriptor} (hw : c.isWired dir)
    (hl : c.loaded = some d) : (c.afterBeat d).isWired dir := by
  obtain ⟨hp, hd, hm, hi⟩ := hw
  obtain ⟨hp', -, -, -, -, hi'⟩ := Channel.loaded_eq_some.mp hl
  have hpa : d.paddr = Config.drAddr := Option.some.inj (hp'.symm.trans hp)
  have hinc : d.pinc = false := Option.some.inj (hi'.symm.trans hi)
  exact ⟨by simp [nextAddr, hinc, hpa], hd, hm, hi⟩

/-- No beat moves the peripheral address of its channel (R51, R250, R252). -/
theorem Coherent.agentStep_paddr {a : Actor} {s t : State} (hc : Coherent s) (ha : a ≠ .host)
    (h : actorStep a s = .next t) : t.tx.paddr = s.tx.paddr ∧ t.rx.paddr = s.rx.paddr := by
  obtain ⟨f, rfl⟩ | rfl | ⟨-, -, -, -, -, -, rfl⟩ | ⟨-, -, -, -, -, -, -, -, -, rfl⟩ |
    ⟨-, hr, d, hl, -, -, rfl⟩ | ⟨-, hr, d, -, hl, -, -, -, rfl⟩ | ⟨-, -, rfl⟩ |
    ⟨-, -, ⟨-, -, -, -, -, rfl⟩ | ⟨-, -, -, rfl⟩⟩ := agentStep_next ha h
  · exact ⟨rfl, rfl⟩
  · exact ⟨rfl, rfl⟩
  · exact ⟨rfl, rfl⟩
  · exact ⟨rfl, rfl⟩
  · obtain ⟨-, -, he, -⟩ := reqTx_iff.mp (dmaTxReady_iff.mp hr).2.1
    have hw := (hc.wiring (hc.startedTx he).1).1
    exact ⟨(hw.afterBeat hl).1.trans hw.1.symm, rfl⟩
  · obtain ⟨-, -, he, -⟩ := reqRx_iff.mp (dmaRxReady_iff.mp hr).2.1
    have hw := (hc.wiring (hc.startedRx he).1).2
    exact ⟨rfl, (hw.afterBeat hl).1.trans hw.1.symm⟩
  · exact ⟨rfl, rfl⟩
  · exact ⟨rfl, rfl⟩
  · exact ⟨rfl, rfl⟩

/-- What the offer of a step to DMA.RX did: it faulted or waited, or the byte of RDR went to RX.MADDR. -/
theorem dmaRxStep_next {s t : State} (h : actorStep .dmaRx s = .next t) :
    Faulted s t ∨ t = s ∨ ∃ d b, s.rx.loaded = some d ∧ s.rdr = some b ∧
      s.mayWrite d.maddr = true ∧
      t = setRx (s.rx.afterBeat d) (storeByte .dmaRx d.maddr b (afterDataRead s)) := by
  obtain ⟨-, h⟩ | ⟨-, rfl⟩ := guarded_next h
  · obtain ⟨d, b, hl, hb, -, ⟨-, rfl⟩ | ⟨hw, rfl⟩⟩ | ⟨-, rfl⟩ := dmaRxBeat_next h
    · exact .inl ⟨_, rfl⟩
    · exact .inr (.inr ⟨d, b, hl, hb, hw, rfl⟩)
    · exact .inl ⟨_, rfl⟩
  · exact .inr (.inl rfl)

/-- An agent leaves every byte but the one at RX.MADDR in a DMA.RX beat. -/
theorem agentStep_byteAt {a : Actor} {s t : State} (ha : a ≠ .host) (h : actorStep a s = .next t)
    {x : Addr} (hx : a = .dmaRx → s.rx.maddr ≠ some x) : t.byteAt x = s.byteAt x := by
  by_cases hr : a = .dmaRx
  · subst hr
    obtain ⟨f, rfl⟩ | rfl | ⟨d, b, hl, -, -, rfl⟩ := dmaRxStep_next h
    · rfl
    · rfl
    · have hm : s.rx.maddr = some d.maddr := (Channel.loaded_eq_some.mp hl).2.1
      exact storeByte_byteAt_other .dmaRx b (afterDataRead s) fun hxd => hx rfl (hxd ▸ hm)
  · exact (agentStep_changesOnly ha h).elements .mem (by cases a <;> simp [agentWrites] at hr ⊢) x

/-- Settles O35: the agent's frame, with the peripheral addresses kept by the wiring. -/
theorem agentFrame : Obligations.AgentFrame := by
  intro s t hc ht h
  have h := (step_next h).2
  have hf := agentStep_changesOnly ht h
  have hp := hc.useChoice.agentStep_paddr ht h
  refine ⟨fun e he => ?_, fun a ha => agentStep_byteAt ht h ha, hf.launch, hf.inputs ?_⟩
  · by_cases htx : e = .txPaddr
    · exact htx ▸ hp.1
    by_cases hrx : e = .rxPaddr
    · exact hrx ▸ hp.2
    exact Element.same_useChoice.mp (hf.elements e (by simp [htx, hrx, he]))
  · cases s.turn <;> simp [agentWrites]

/-! Who changes an element: the instruction HOST fetched, or the agent that stepped. -/

/-- The part of the machine that wrote an element in the step from `s` to `t`. -/
inductive WrittenBy (e : Element) (s t : State) : Prop where
  /-- HOST, with an instruction that may write it. -/
  | instr (i : Instr) (turn : s.turn = .host) (fetched : fetch s = .instr i)
      (effect : Effect (useChoice s) t i) (writes : e ∈ instrWrites i)
  /-- An agent other than HOST that may write it. -/
  | agent (turn : s.turn ≠ .host) (acted : actorStep s.turn (useChoice s) = .next t)
      (writes : e ∈ agentWrites s.turn)

/-- An element that a step changes, FAULT and the peripheral addresses aside, was written by the
instruction or the agent that R66 lists for it. -/
theorem step_writtenBy {e : Element} {s t : State} (h : step s = .next t) (hne : ¬ e.same s t)
    (he : e ∉ [Element.fault, .txPaddr, .rxPaddr]) : WrittenBy e s t := by
  simp only [List.mem_cons, List.not_mem_nil, or_false, not_or] at he
  rw [← Element.same_useChoice] at hne
  obtain ⟨-, ⟨f, rfl⟩ | rfl | ⟨ht, i, hi, hE⟩ | ⟨ht, ha⟩⟩ := step_cases h
  · exact absurd (Element.same_faulted f _ he.1) hne
  · exact absurd (Element.same_refl _ e) hne
  · exact .instr i ht hi hE (by_contra fun hw => hne (hE.changesOnly.elements e hw))
  · exact .agent ht ha (by_contra fun hw => hne ((agentStep_changesOnly ht ha).elements e
      (by simp [he.2.1, he.2.2, hw])))

/-- What a step leaves of the state the choice was used up in. -/
theorem step_changesOnly {s t : State} (h : step s = .next t) :
    ∃ writes, ChangesOnly writes (useChoice s) t := by
  obtain ⟨-, hf | rfl | ⟨-, i, -, hE⟩ | ⟨ht, ha⟩⟩ := step_cases h
  · exact ⟨[.fault], hf.changesOnly (List.mem_singleton_self _)⟩
  · exact ⟨[], .refl _ _⟩
  · exact ⟨_, hE.changesOnly⟩
  · exact ⟨_, agentStep_changesOnly ht ha⟩

/-- Settles O49: both are part of every frame. -/
theorem historyGrowsLaunchStays : Obligations.HistoryGrowsLaunchStays := by
  intro s t h
  obtain ⟨_, hc⟩ := step_changesOnly h
  obtain ⟨l, hl⟩ := hc.history
  exact ⟨⟨l, hl.symm⟩, hc.launch⟩

/-- The sole writers of the divisor and the rate (R67). -/
theorem brgld_of_writes {e : Element} (he : e = .brgDiv ∨ e = .brgRate) :
    (∀ i, e ∈ instrWrites i → ∃ rate, i = .brgld rate) ∧ ∀ a, e ∉ agentWrites a := by
  obtain rfl | rfl := he <;>
    exact ⟨fun i => by cases i <;> simp [instrWrites], fun a => by cases a <;> simp [agentWrites]⟩

/-- Settles O45: the writer of either register is a BRGLD that did not fault. -/
theorem divisorChangesOnlyWhenDisabled : Obligations.DivisorChangesOnlyWhenDisabled := by
  intro s t h hne
  obtain ⟨e, he, hw⟩ : ∃ e, (e = .brgDiv ∨ e = .brgRate) ∧ WrittenBy e s t :=
    hne.elim (fun hd => ⟨.brgDiv, .inl rfl, step_writtenBy h hd (by simp)⟩)
      (fun hr => ⟨.brgRate, .inr rfl, step_writtenBy h hr (by simp)⟩)
  obtain ⟨hi, ha⟩ := brgld_of_writes he
  cases hw with
  | instr i ht hf hE hw =>
    obtain ⟨rate, rfl⟩ := hi i hw
    obtain ⟨hact, -, hu, -, -, -, -, rfl⟩ := hE
    exact ⟨hu, ht, hact, rate, hf, rfl⟩
  | agent _ _ hw => exact absurd hw (ha _)

/-- The sole writers of DONE (R32, R68). -/
theorem doneset_or_doneclr_of_writes_done {i : Instr} (h : Element.done ∈ instrWrites i) :
    i = .doneset ∨ i = .doneclr := by
  cases i <;> simp [instrWrites] at h ⊢

/-- Settles O46: the writer is DONESET or DONECLR, by its effect on the flag. -/
theorem completionFlagSoleWriters : Obligations.CompletionFlagSoleWriters := by
  intro s t h
  suffices hd : t.done ≠ s.done →
      (t.done = true ∧ s.turn = .host ∧ s.irqActive = true ∧ fetch s = .instr .doneset) ∨
      (t.done = false ∧ s.turn = .host ∧ s.irqActive = false ∧ fetch s = .instr .doneclr ∧
        s.tx.en = false ∧ s.rx.en = false) by
    constructor <;> intro h1 h2 <;> simpa [h1, h2] using hd
  intro hne
  cases step_writtenBy (e := .done) h hne (by simp) with
  | instr i ht hf hE hw =>
    obtain rfl | rfl := doneset_or_doneclr_of_writes_done hw
    · obtain ⟨ha, rfl⟩ := hE
      exact .inl ⟨rfl, ht, ha, hf⟩
    · obtain ⟨ha, htx, hrx, rfl⟩ := hE
      exact .inr ⟨rfl, ht, ha, hf, htx, hrx⟩
  | agent _ _ hw => cases hturn : s.turn <;> simp [hturn, agentWrites] at hw

/-- The writers of RX.TC (R31): FCLR and the receive channel's beat. -/
theorem fclr_of_writes_rxTc {i : Instr} (h : Element.rxTc ∈ instrWrites i) : ∃ m, i = .fclr m := by
  cases i <;> simp [instrWrites] at h ⊢

theorem dmaRx_of_writes_rxTc {a : Actor} (h : Element.rxTc ∈ agentWrites a) : a = .dmaRx := by
  cases a <;> simp [agentWrites] at h ⊢

/-- Settles O47: FCLR sets no flag, so the writer is the DMA.RX beat, and the flag rises in it only
when the count falls to 0. -/
theorem completionOnlyAfterLanding : Obligations.CompletionOnlyAfterLanding := by
  intro s t h hs ht
  cases step_writtenBy (e := .rxTc) h (by simp [Element.same, hs, ht]) (by simp) with
  | instr i _ _ hE hw =>
    obtain ⟨m, rfl⟩ := fclr_of_writes_rxTc hw
    obtain ⟨-, -, rfl⟩ := hE
    simp [hs] at ht
  | agent _ ha hw =>
    have hturn := dmaRx_of_writes_rxTc hw
    rw [hturn] at ha
    obtain ⟨f, rfl⟩ | rfl | ⟨d, b, hl, hb, hm, rfl⟩ := dmaRxStep_next ha
    · exact absurd (hs.symm.trans ht) nofun
    · exact absurd (hs.symm.trans ht) nofun
    · obtain ⟨-, hma, hcnt, -⟩ := Channel.loaded_eq_some.mp hl
      have h0 : d.cnt - 1 = 0 := by simpa [hs] using ht
      have h1 : d.cnt = 1 := by bv_omega
      exact ⟨hturn, h1 ▸ hcnt, by simp [h1], by simp [h1], d.maddr, b, hma, hb, hm,
        storeByte_byteAt_same .dmaRx d.maddr b (afterDataRead (useChoice s))⟩

/-- The writers of IRQ.ACTIVE (R27): IRET and IRQ.entry. -/
theorem iret_of_writes_irqActive {i : Instr} (h : Element.irqActive ∈ instrWrites i) : i = .iret := by
  cases i <;> simp [instrWrites] at h ⊢

theorem irqEntry_of_writes_irqActive {a : Actor} (h : Element.irqActive ∈ agentWrites a) :
    a = .irqEntry := by
  cases a <;> simp [agentWrites] at h ⊢

/-- No agent but HOST writes the thread's counter (R25). -/
theorem pc_not_mem_agentWrites (a : Actor) : Element.pc ∉ agentWrites a := by
  cases a <;> simp [agentWrites]

/-- A step of the machine keeps the thread's counter while the handler runs (R205). -/
theorem step_pc_of_handler {s t : State} (h : step s = .next t) (ha : s.irqActive = true) :
    t.pc = s.pc := by
  by_contra hne
  cases step_writtenBy (e := .pc) h hne (by simp) with
  | instr i _ _ hE _ => exact hne (hE.pc_eq ha)
  | agent _ _ hw => exact pc_not_mem_agentWrites _ hw

/-- A step that changes the context is IRET, from HANDLER, or IRQ.entry, on its request (R292, R294). -/
theorem step_context {s t : State} (h : step s = .next t) (hne : t.irqActive ≠ s.irqActive) :
    (s.irqActive = true ∧ s.turn = .host ∧ fetch s = .instr .iret ∧
      t = returnFromInterrupt (useChoice s)) ∨
    (s.turn = .irqEntry ∧ irqEntryReady s = true ∧ t = takeInterrupt (useChoice s)) := by
  cases step_writtenBy (e := .irqActive) h hne (by simp) with
  | instr i ht hf hE hw =>
    obtain rfl := iret_of_writes_irqActive hw
    obtain ⟨ha, rfl⟩ := hE
    exact .inl ⟨ha, ht, hf, rfl⟩
  | agent _ ha hw =>
    have hturn := irqEntry_of_writes_irqActive hw
    rw [hturn] at ha
    obtain ⟨hr, ha⟩ | ⟨-, rfl⟩ := guarded_next ha
    · exact .inr ⟨hturn, hr, (Host.Outcome.next.inj ha).symm⟩
    · exact absurd rfl hne

/-- Settles O48: the two steps that change the context, and the counter kept while the handler runs. -/
theorem contextSwitches : Obligations.ContextSwitches := by
  refine fun s t h => ⟨step_pc_of_handler h, fun hs ht => ?_, fun hs ht => ?_⟩
  · obtain ⟨ha, -⟩ | ⟨hturn, hr, rfl⟩ := step_context h (by simp [hs, ht])
    · exact absurd (hs.symm.trans ha) nofun
    · obtain ⟨-, htc, htcie, hen, -⟩ := irqEntryReady_iff.mp hr
      exact ⟨hturn, htc, htcie, hen, rfl, rfl⟩
  · obtain ⟨-, hturn, hf, rfl⟩ | ⟨-, hr, -⟩ := step_context h (by simp [hs, ht])
    · exact ⟨hturn, hf, rfl⟩
    · obtain ⟨-, -, -, -, ha, -⟩ := irqEntryReady_iff.mp hr
      exact absurd (hs.symm.trans ha) nofun

/-! The counter stays in an accepted program (R25, R111). -/

/-- Every word of accepted words decodes to an instruction whose branch fits (R111). -/
theorem wordsAccepted_getElem? {n p k : Nat} {ws : List Word} {w : Word}
    (h : wordsAccepted n p ws = true) (hw : ws[k]? = some w) :
    ∃ i, decode w = .instr i ∧ skipFits n (p + k) i = true := by
  induction ws generalizing p k with
  | nil => simp at hw
  | cons v ws ih =>
    rw [wordsAccepted, Bool.and_eq_true] at h
    obtain ⟨hv, hws⟩ := h
    cases k with
    | zero =>
      obtain rfl : v = w := by simpa using hw
      cases hd : decode v with
      | instr i => exact ⟨i, rfl, by simpa [hd] using hv⟩
      | illegalOp | illegalImm => simp [hd] at hv
    | succ k =>
      rw [Nat.add_comm k 1, ← Nat.add_assoc]
      exact ih hws (by simpa using hw)

/-- An instruction fetched in THREAD stands at PC, inside the program, and its branch fits. -/
theorem fetch_accepted {s : State} {i : Instr} (hp : programAccepted s.launch.prog = true)
    (ha : s.irqActive = false) (hf : fetch s = .instr i) :
    s.pc < s.launch.prog.length ∧ skipFits s.launch.prog.length s.pc i = true := by
  cases hw : s.launch.prog[s.pc]? with
  | none =>
    simp only [fetch, ha, hw, Bool.false_eq_true, if_false] at hf
    split at hf <;> cases hf
  | some w =>
    obtain ⟨j, hj, hs⟩ := wordsAccepted_getElem? hp hw
    rw [fetch_thread ha hw, fetchedWord_instr hj] at hf
    obtain rfl := Fetched.instr.inj hf
    exact ⟨(List.getElem?_eq_some_iff.mp hw).1, by simpa using hs⟩

/-- Settles O55: while the handler runs the counter stays; in THREAD it moves only from inside the
program, by one or to the target of an accepted BUE. -/
theorem counterStaysInProgram : Obligations.CounterStaysInProgram := by
  intro s t hp hpc h
  obtain ⟨_, hc⟩ := step_changesOnly h
  rw [hc.launch]
  change t.pc ≤ s.launch.prog.length
  by_cases hsame : t.pc = s.pc
  · exact hsame ▸ hpc
  have ha : s.irqActive = false := by
    by_contra ha
    exact hsame (step_pc_of_handler h (by simpa using ha))
  cases step_writtenBy (e := .pc) h hsame (by simp) with
  | agent _ _ hw => exact absurd hw (pc_not_mem_agentWrites _)
  | instr i _ hf hE _ =>
    obtain ⟨hlt, hfits⟩ := fetch_accepted hp ha hf
    obtain ⟨hk, -⟩ | ⟨hk, -⟩ | ⟨-, k, rfl, hk, -⟩ := hE.counters
    · exact absurd hk hsame
    · have hk : t.pc = s.pc + 1 := by simpa [ha] using hk
      exact hk ▸ hlt
    · simpa [hk, branchTarget, skipFits] using hfits

/-! The coherence of the state: the channels (R50 to R53, R75). -/

/-- A beat of a channel with bytes left keeps its range from wrapping (R75). -/
theorem Channel.isLoaded.afterBeat {c : Channel} {d : Descriptor} (hc : c.isLoaded)
    (hl : c.loaded = some d) (hn : d.cnt ≠ 0) : (c.afterBeat d).isLoaded := by
  obtain ⟨a, n, ha, hcnt, hp⟩ := hc
  obtain ⟨-, hma, hct, -⟩ := Channel.loaded_eq_some.mp hl
  obtain rfl : d.maddr = a := Option.some.inj (hma.symm.trans ha)
  obtain rfl : d.cnt = n := Option.some.inj (hct.symm.trans hcnt)
  refine ⟨_, _, rfl, rfl, ?_⟩
  rw [wellPlaced_iff] at hp ⊢
  have h1 : (d.cnt - 1).toNat = d.cnt.toNat - 1 := by bv_omega
  have h2 : (nextAddr d.minc d.maddr).toNat ≤ d.maddr.toNat + 1 := by
    unfold nextAddr
    split
    · exact (BitVec.toNat_add ..).le.trans (Nat.mod_le _ _)
    · omega
  have h3 : 0 < d.cnt.toNat := by bv_omega
  omega

/-- The request of a channel brings its count above 0. -/
theorem Channel.loaded_cnt_ne_zero {c : Channel} {d : Descriptor} (hl : c.loaded = some d)
    (hn : ∃ n, c.cnt = some n ∧ n ≠ 0) : d.cnt ≠ 0 := by
  obtain ⟨n, hc, hn⟩ := hn
  obtain ⟨-, -, hd, -⟩ := Channel.loaded_eq_some.mp hl
  exact Option.some.inj (hd.symm.trans hc) ▸ hn

/-! The instructions from a coherent state. -/

section

variable {s : State}

/-- BRGLD loads a divisor that is not 0, while no frame is on the wire (R138). -/
theorem Coherent.loadDivisor (h : Coherent s) (hu : s.ue = false) {d : Nat}
    (hd : divisorFits d = true) (rate : Rate) :
    Coherent { s with brgDiv := some (BitVec.ofNat 16 d), brgRate := some rate } :=
  have hne : BitVec.ofNat 16 d ≠ 0 := by
    obtain ⟨hlo, hhi⟩ := divisorFits_iff.mp hd
    intro h0
    have := congrArg BitVec.toNat h0
    simp only [BitVec.toNat_ofNat, BitVec.ofNat_eq_ofNat] at this
    omega
  { h with
    divisor := fun he => hne (Option.some.inj he)
    counter := fun hu' => absurd (hu.symm.trans hu') nofun
    frame := fun hb => absurd (hu.symm.trans (h.active (.inl hb))) nofun }

/-- UEEN starts the counter at the divisor (R139, R241). -/
theorem Coherent.enableEngine (h : Coherent s) (hk : s.clkOn = true) {d : Divisor}
    (hd : s.brgDiv = some d) : Coherent { s with ue := true, brgCnt := some d } :=
  have hne : d ≠ 0 := fun h0 => h.divisor (h0 ▸ hd)
  { h with
    counter := fun _ => ⟨d, d, rfl, hd, by bv_omega, Nat.le_refl _⟩
    enabledClocked := fun _ => hk
    tick := nofun
    active := fun _ => rfl }

/-- UEDIS stops an idle engine (R136). -/
theorem Coherent.disableEngine (h : Coherent s) (hi : s.idle = true) :
    Coherent { s with ue := false, baudTick := false } :=
  have ⟨hb, ht, hr, hd, _, _, _⟩ := idle_iff.mp hi
  { h with
    counter := nofun
    enabledClocked := nofun
    tick := fun _ => rfl
    active := by simp [hb, ht, hr, hd] }

/-- DMAWIRE loads the static fields of two stopped channels (R134). -/
theorem Coherent.wireChannels (h : Coherent s) (hk : s.clkOn = true) (hi : s.idle = true) :
    Coherent { s with tx := s.tx.wire true, rx := s.rx.wire false, wired := true } :=
  have ⟨_, _, _, _, _, htx, hrx⟩ := idle_iff.mp hi
  { h with
    wiredClocked := fun _ => hk
    wiring := fun _ => ⟨⟨rfl, rfl, rfl, rfl⟩, rfl, rfl, rfl, rfl⟩
    startedTx := fun he => absurd (htx.symm.trans he) nofun
    startedRx := fun he => absurd (hrx.symm.trans he) nofun }

/-- Every instruction of THREAD. -/
theorem Coherent.threadEffect (h : Coherent s) {t : State} {i : Instr} (ha : s.irqActive = false)
    (hE : Effect s t i) : Coherent t := by
  have hthread {p : Prop} (h' : s.irqActive = true) : p := absurd (ha.symm.trans h') nofun
  cases i with
  | bue => obtain ⟨-, rfl⟩ := hE; exact { h with }
  | clken =>
    obtain ⟨-, rfl⟩ := hE
    refine Coherent.advance_thread ?_ ha
    exact { h with
      enabledClocked := fun _ => rfl, wiredClocked := fun _ => rfl, sourceClocked := fun _ => rfl }
  | pincfg =>
    obtain ⟨-, -, -, rfl⟩ := hE
    refine Coherent.advance_thread ?_ ha
    exact { h with pins := rfl }
  | dmawire =>
    obtain ⟨-, hk, hi, rfl⟩ := hE
    exact (h.wireChannels hk hi).advance_thread ha
  | irqen =>
    obtain ⟨-, rfl⟩ := hE
    refine Coherent.advance_thread ?_ ha
    exact { h with handler := fun h' => hthread h' }
  | uedis =>
    obtain ⟨-, -, hi, rfl⟩ := hE
    exact (h.disableEngine hi).advance_thread ha
  | clkrd =>
    obtain ⟨-, rfl⟩ := hE
    refine Coherent.advance_thread (Coherent.record ?_ _) ha
    exact { h with clock := fun hf => frequencyOf_ne_zero _ (Option.some.inj hf) }
  | brgld rate =>
    obtain ⟨-, -, hu, -, f, -, hd, rfl⟩ := hE
    exact ((h.loadDivisor hu hd rate).record _).advance_thread ha
  | ueen =>
    obtain ⟨-, hk, d, hd, ⟨-, rfl⟩ | ⟨-, rfl⟩⟩ := hE
    · exact h.advance_thread ha
    · exact (h.enableEngine hk hd).advance_thread ha
  | fclr m =>
    obtain ⟨-, -, rfl⟩ := hE
    refine Coherent.advance_thread ?_ ha
    exact { h with handler := fun h' => hthread h' }
  | lenldTx | maldTx =>
    obtain ⟨-, -, he, rfl⟩ := hE
    refine Coherent.advance_thread ?_ ha
    exact { h with startedTx := fun he' => absurd (he.symm.trans he') nofun }
  | lenldRx | maldRx =>
    obtain ⟨-, -, he, rfl⟩ := hE
    refine Coherent.advance_thread ?_ ha
    exact { h with startedRx := fun he' => absurd (he.symm.trans he') nofun }
  | doneclr =>
    obtain ⟨-, -, -, rfl⟩ := hE
    refine Coherent.advance_thread (Coherent.record ?_ _) ha
    exact { h with handler := fun h' => hthread h' }
  | drqen =>
    obtain ⟨-, -, hu, rfl⟩ := hE
    refine Coherent.advance_thread ?_ ha
    exact { h with requestLines := rfl, active := fun _ => hu }
  | tcien =>
    obtain ⟨-, hk, rfl⟩ := hE
    refine Coherent.advance_thread ?_ ha
    exact { h with sourceClocked := fun _ => hk, handler := fun h' => hthread h' }
  | chenRx =>
    obtain ⟨-, -, hw, -, hl, rfl⟩ := hE
    refine Coherent.advance_thread ?_ ha
    exact { h with startedRx := fun _ => ⟨hw, hl⟩ }
  | chenTx =>
    obtain ⟨-, -, hw, -, ⟨a, -, n, hm, hn, -, -, hp, -⟩, rfl⟩ := hE
    refine Coherent.advance_thread ?_ ha
    exact { h with startedTx := fun _ => ⟨hw, a, n, hm, hn, hp⟩ }
  | drqdis =>
    obtain ⟨-, -, rfl⟩ := hE
    refine Coherent.advance_thread ?_ ha
    exact { h with
      requestLines := rfl
      active := fun hx => h.active (hx.imp_right (Or.imp_right (Or.imp_right nofun))) }
  | wdone =>
    obtain ⟨-, ⟨-, rfl⟩ | ⟨-, rfl⟩⟩ := hE
    · exact h.advance_thread ha
    · exact h
  | wtxe | wrxne =>
    obtain ⟨-, -, ⟨-, rfl⟩ | ⟨-, rfl⟩⟩ := hE
    · exact h.advance_thread ha
    · exact h
  | doneset | iret => exact hthread hE.1
  | put addr =>
    obtain ⟨-, -, hu, -, -, rfl⟩ := hE
    refine Coherent.advance_thread ?_ ha
    exact { h with transmit := fun _ => rfl, active := fun _ => hu }
  | get addr =>
    obtain ⟨-, -, hx, -, b, -, rfl⟩ := hE
    refine Coherent.advance_thread ?_ ha
    exact { h with
      memory := storeByte_wf .host addr b s h.memory
      receive := nofun
      active := fun _ => h.active (.inr (.inr (.inl hx))) }

/-- The three words of the handler, each at its own place in HPROG (R204, R206). -/
theorem Coherent.handlerEffect (h : Coherent s) {t : State} {i : Instr} (ha : s.irqActive = true)
    (hf : fetch s = .instr i) (hE : Effect s t i) : Coherent t := by
  obtain ⟨hen, htcie, htc, hdone⟩ := h.handler ha
  obtain ⟨hp, rfl⟩ | ⟨hp, rfl⟩ | ⟨-, rfl⟩ := fetch_handlerProgram ha hf
  · obtain ⟨-, rfl⟩ := hE
    rw [advance_handler (by exact ha)]
    exact { h with
      handlerCounter := by simp [hp]
      handler := fun _ => ⟨hen, htcie, fun _ => htc (by omega), fun _ => rfl⟩ }
  · obtain ⟨-, -, rfl⟩ := hE
    rw [advance_handler (by exact ha)]
    exact { h with
      handlerCounter := by simp [hp]
      handler := fun _ => ⟨hen, htcie, by simp [hp], fun _ => hdone (by omega)⟩ }
  · obtain ⟨-, rfl⟩ := hE
    exact { h with handler := nofun }

/-! The agents from a coherent state. -/

/-- A frame on the wire has the byte of TDR and the divisor in force (R244). -/
theorem Coherent.afterShiftStart (h : Coherent s) (hu : s.ue = true) {b : Byte} {d : Divisor}
    (hd : s.brgDiv = some d) :
    Coherent (flagsAfterStart { s with tsr := some b, fdiv := some d }) :=
  { h with
    transmit := nofun
    frame := fun _ => ⟨rfl, hd.symm⟩
    active := fun _ => hu }

/-- A received frame leaves its byte in RDR (R246). -/
theorem Coherent.afterShiftComplete (h : Coherent s) (hb : s.busy = true) (r : Byte) :
    Coherent (flagsAfterComplete { s with rdr := some r, frames := s.frames + 1 }) :=
  { h with
    receive := fun _ => rfl
    frame := nofun
    active := fun _ => h.active (.inl hb) }

/-- A DMA.TX beat fills TDR and moves the channel on (R250). -/
theorem Coherent.afterTxBeat (h : Coherent s) (hq : s.reqTx = true) {d : Descriptor}
    (hl : s.tx.loaded = some d) (b : Byte) :
    Coherent (setTx (s.tx.afterBeat d) (writeDataRegister b (noteRead .dmaTx d.maddr s))) := by
  obtain ⟨hdmat, -, he, hn⟩ := reqTx_iff.mp hq
  obtain ⟨hw, hld⟩ := h.startedTx he
  exact { h with
    transmit := fun _ => rfl
    active := fun _ => h.active (.inr (.inr (.inr hdmat)))
    wiring := fun hw => ⟨(h.wiring hw).1.afterBeat hl, (h.wiring hw).2⟩
    startedTx := fun _ => ⟨hw, hld.afterBeat hl (Channel.loaded_cnt_ne_zero hl hn)⟩ }

/-- A DMA.RX beat empties RDR into MEM and moves the channel on; a flag that is set stays set (R252). -/
theorem Coherent.afterRxBeat (h : Coherent s) (hq : s.reqRx = true) {d : Descriptor}
    (hl : s.rx.loaded = some d) (b : Byte) :
    Coherent (setRx (s.rx.afterBeat d) (storeByte .dmaRx d.maddr b (afterDataRead s))) := by
  obtain ⟨-, hx, he, hn⟩ := reqRx_iff.mp hq
  obtain ⟨hw, hld⟩ := h.startedRx he
  exact { h with
    memory := storeByte_wf .dmaRx d.maddr b (afterDataRead s) h.memory
    receive := nofun
    active := fun _ => h.active (.inr (.inr (.inl hx)))
    wiring := fun hw => ⟨(h.wiring hw).1, (h.wiring hw).2.afterBeat hl⟩
    startedRx := fun _ => ⟨hw, hld.afterBeat hl (Channel.loaded_cnt_ne_zero hl hn)⟩
    handler := fun ha =>
      have ⟨hen, htcie, htc, hdone⟩ := h.handler ha
      ⟨hen, htcie, fun hp => by simp [htc hp], hdone⟩ }

/-- IRQ.entry starts the handler at its first word, on its request (R292). -/
theorem Coherent.afterInterrupt (h : Coherent s) (hr : irqEntryReady s = true) :
    Coherent (takeInterrupt s) :=
  have ⟨_, htc, htcie, hen, _, _⟩ := irqEntryReady_iff.mp hr
  { h with
    handlerCounter := Nat.zero_le 2
    handler := fun _ => ⟨hen, htcie, fun _ => htc, nofun⟩ }

/-- BRG.tick reloads the counter, or counts down to 1 at the lowest (R241). -/
theorem Coherent.afterTick (h : Coherent s) (hu : s.ue = true) {c d : Divisor} {b : Bool}
    (hd : s.brgDiv = some d) (hlo : 1 ≤ c.toNat) (hhi : c.toNat ≤ d.toNat) :
    Coherent { s with brgCnt := some c, baudTick := b } :=
  { h with
    counter := fun _ => ⟨c, d, rfl, hd, hlo, hhi⟩
    tick := fun hu' => absurd (hu.symm.trans hu') nofun }

/-- Every step of an agent other than HOST. -/
theorem Coherent.agentStep (h : Coherent s) {a : Actor} {t : State} (ha : a ≠ .host)
    (hs : actorStep a s = .next t) : Coherent t := by
  obtain hf | rfl | ⟨-, hr, b, d, -, hd, rfl⟩ | ⟨-, hr, -, -, r, -, -, -, -, rfl⟩ |
    ⟨-, hr, d, hl, -, -, rfl⟩ | ⟨-, hr, d, b, hl, -, -, -, rfl⟩ | ⟨-, hr, rfl⟩ |
    ⟨-, hr, ht⟩ := agentStep_next ha hs
  · exact h.faulted hf
  · exact h
  · exact h.afterShiftStart (shiftStartReady_iff.mp hr).2.1 hd
  · exact (h.afterShiftComplete (shiftCompleteReady_iff.mp hr).2.1 r).record _
  · exact h.afterTxBeat (dmaTxReady_iff.mp hr).2.1 hl _
  · exact h.afterRxBeat (dmaRxReady_iff.mp hr).2.1 hl b
  · exact h.afterInterrupt hr
  · have hu := (brgTickReady_iff.mp hr).2
    obtain ⟨c, d, hc, hd, hlo, hhi⟩ := h.counter hu
    obtain ⟨-, d', -, -, hd', rfl⟩ | ⟨c', hc', hgt, rfl⟩ := ht
    · obtain rfl : d = d' := Option.some.inj (hd.symm.trans hd')
      exact h.afterTick hu hd (hlo.trans hhi) (Nat.le_refl _)
    · obtain rfl : c = c' := Option.some.inj (hc.symm.trans hc')
      have hpred : (c - 1).toNat = c.toNat - 1 := by bv_omega
      exact h.afterTick hu hd (by omega) (by omega)

end

/-- Settles O54: a fault and an unused turn keep every part, an instruction acts in its context, and
each agent's action keeps the parts it touches. -/
theorem stepKeepsCoherent : Obligations.StepKeepsCoherent := by
  intro s t h hs
  have hu := h.useChoice
  obtain ⟨-, hf | rfl | ⟨-, i, hi, hE⟩ | ⟨ht, ha⟩⟩ := step_cases hs
  · exact hu.faulted hf
  · exact hu
  · cases hact : s.irqActive
    · exact hu.threadEffect hact hE
    · exact hu.handlerEffect hact hi hE
  · exact hu.agentStep ht ha

end Sys2Proof.Machine
end

section
/-! PROOFS of the family 20_memory: bytes outside RD are not observed (R74, R81), the engines carry a
buffer to its place on the loop-back bus (R90, R247, R257), and a step accesses MEM only where it is
admitted (R71, R74). -/

namespace Sys2Proof.Machine

/-! Memories that agree on the readable bytes (R74). -/

/-- A memory agrees with the one of a state on every byte the state may read. -/
def AgreesOnReadable (s : State) (m : List Host.Cell) : Prop :=
  ∀ a, s.mayRead a = true → Memory.read m a.toNat = s.byteAt a

/-- Two answers that are the same but for bytes of memory that may not be read. -/
inductive Alike : Result → Result → Prop
  /-- Next states that differ in such bytes alone. -/
  | next {t : State} {m : List Host.Cell} (agree : AgreesOnReadable t m) :
      Alike (.next t) (.next { t with mem := m })
  /-- The same fault. -/
  | fault (f : Fault) : Alike (.fault f) (.fault f)
  /-- The same refusal. -/
  | refused (q : Refusal) : Alike (.refused q) (.refused q)

/-- A choice that no byte of memory decides. -/
theorem Alike.ite {c : Prop} [Decidable c] {r₁ r₂ r₁' r₂' : Result} (h₁ : Alike r₁ r₁')
    (h₂ : Alike r₂ r₂') : Alike (if c then r₁ else r₂) (if c then r₁' else r₂') := by
  split
  · exact h₁
  · exact h₂

section

variable {s : State} {m : List Host.Cell} (h : AgreesOnReadable s m)

include h

/-- Storing the same byte in both memories. -/
theorem AgreesOnReadable.storeByte (g : MemAgent) (x : Addr) (v : Byte) :
    AgreesOnReadable (storeByte g x v s) (Memory.write m x.toNat v) := by
  intro a ha
  by_cases hax : a = x
  · rw [hax, storeByte_byteAt_same, Memory.read_write_same]
  · rw [storeByte_byteAt_other g v s hax, Memory.read_write_other m v (BitVec.toNat_ne.mp hax)]
    exact h a ha

/-- A readable byte goes to the data register, with its event, the same from either memory. -/
theorem AgreesOnReadable.readIntoDataRegister (g : MemAgent) {a : Addr} (ha : s.mayRead a = true) :
    writeDataRegister (State.byteAt { s with mem := m } a) (noteRead g a { s with mem := m }) =
      { writeDataRegister (s.byteAt a) (noteRead g a s) with mem := m } := by
  have hb : State.byteAt { s with mem := m } a = s.byteAt a := h a ha
  simp only [noteRead, hb]
  rfl

theorem AgreesOnReadable.raise (f : Fault) : Alike (raise f s) (raise f { s with mem := m }) :=
  .next (t := { s with fault := some f }) h

/-- A check, before answers that are alike once it has passed. -/
theorem AgreesOnReadable.require {ok : Bool} {f : Fault} {r r' : Result}
    (hr : ok = true → Alike r r') :
    Alike (require ok f s r) (require ok f { s with mem := m } r') := by
  cases ok
  · exact h.raise f
  · exact hr rfl

theorem AgreesOnReadable.prelude {thread handler gated : Bool} {r r' : Result} (hr : Alike r r') :
    Alike (prelude thread handler gated s r)
      (prelude thread handler gated { s with mem := m } r') := by
  unfold Machine.prelude
  dsimp only
  split
  · exact .fault _
  · exact h.require fun _ => h.require fun _ => hr

theorem AgreesOnReadable.guarded {ready : Bool} {r r' : Result} (hr : Alike r r') :
    Alike (guarded ready r s) (guarded ready r' { s with mem := m }) :=
  .ite hr (.next h)

/-- Every instruction: PUT alone reads MEM, inside RD, and GET alone writes it, a byte of RDR. -/
theorem AgreesOnReadable.exec (i : Instr) : Alike (exec i s) (exec i { s with mem := m }) := by
  cases i with
  | bue | clken | irqen | clkrd | tcien | drqdis | doneset | iret => exact h.prelude (.next h)
  | pincfg | dmawire | uedis | fclr | lenldTx | maldTx | lenldRx | maldRx | doneclr | drqen =>
    exact h.prelude (h.require fun _ => .next h)
  | wdone | wtxe | wrxne => exact h.prelude (.ite (.next h) (.next h))
  | brgld rate =>
    refine h.prelude (h.require fun _ => ?_)
    dsimp only
    split
    · exact h.raise _
    · exact h.require fun _ => h.require fun _ => .next h
  | ueen =>
    refine h.prelude ?_
    dsimp only
    split
    · exact h.raise _
    · split
      · exact .next h
      · exact .next h
  | chenRx =>
    refine h.prelude (h.require fun _ => ?_)
    dsimp only
    split
    · exact h.require fun _ => h.require fun _ => .next h
    · exact h.raise _
  | chenTx =>
    refine h.prelude (h.require fun _ => ?_)
    dsimp only
    split
    · exact h.require fun _ => h.require fun _ => h.require fun _ => h.require fun _ => .next h
    · exact h.raise _
  | put addr =>
    refine h.prelude (h.require fun _ => h.require fun _ => h.require fun hr => ?_)
    rw [h.readIntoDataRegister .host hr]
    exact .next h
  | get addr =>
    refine h.prelude (h.require fun _ => h.require fun _ => ?_)
    dsimp only
    split
    · exact h.raise _
    · exact .next (h.storeByte .host addr _)

theorem AgreesOnReadable.hostStep : Alike (hostStep s) (hostStep { s with mem := m }) := by
  have hf : fetch { s with mem := m } = fetch s := rfl
  unfold Machine.hostStep
  rw [hf]
  split
  · exact h.exec _
  · exact h.raise _
  · exact .next h
  · exact .refused _

theorem AgreesOnReadable.shiftStart : Alike (shiftStart s) (shiftStart { s with mem := m }) := by
  unfold Machine.shiftStart
  dsimp only
  split
  · exact .next h
  · exact h.raise _

theorem AgreesOnReadable.shiftComplete :
    Alike (shiftComplete s) (shiftComplete { s with mem := m }) := by
  have hf b d : frameAnswer { s with mem := m } b d = frameAnswer s b d := rfl
  unfold Machine.shiftComplete
  simp only [hf]
  split
  · split
    · exact h.require fun _ => .next h
    · exact .next h
  · exact h.raise _

/-- The transmit channel reads its byte inside RD. -/
theorem AgreesOnReadable.dmaTxBeat : Alike (dmaTxBeat s) (dmaTxBeat { s with mem := m }) := by
  unfold Machine.dmaTxBeat
  dsimp only
  split
  · exact h.raise _
  · next d _ =>
    refine .ite (h.require fun hr => ?_) (.refused _)
    rw [h.readIntoDataRegister .dmaTx hr]
    exact .next h

/-- The receive channel stores the byte of RDR. -/
theorem AgreesOnReadable.dmaRxBeat : Alike (dmaRxBeat s) (dmaRxBeat { s with mem := m }) := by
  unfold Machine.dmaRxBeat
  dsimp only
  split
  · next d b _ _ =>
    exact .ite (.refused _) (h.require fun _ => .next (h.storeByte .dmaRx d.maddr b))
  · exact h.raise _

theorem AgreesOnReadable.brgTick : Alike (brgTick s) (brgTick { s with mem := m }) := by
  unfold Machine.brgTick
  dsimp only
  split
  · exact h.raise _
  · refine .ite ?_ (.next h)
    split
    · exact h.raise _
    · exact .next h

theorem AgreesOnReadable.actorStep (a : Actor) :
    Alike (actorStep a s) (actorStep a { s with mem := m }) := by
  cases a with
  | host => exact h.hostStep
  | shiftStart => exact h.guarded h.shiftStart
  | shiftComplete => exact h.guarded h.shiftComplete
  | dmaTx => exact h.guarded h.dmaTxBeat
  | dmaRx => exact h.guarded h.dmaRxBeat
  | irqEntry => exact h.guarded (.next h)
  | brgTick => exact h.guarded h.brgTick

theorem AgreesOnReadable.step : Alike (step s) (step { s with mem := m }) := by
  unfold Machine.step machineStep
  dsimp only
  split
  · exact .fault _
  · exact AgreesOnReadable.actorStep (s := useChoice s) h s.turn

end

/-- What alike answers say of each other, as `Obligations.UnreadableMemoryNotObserved` puts it. -/
theorem Alike.answers {r r' : Result} (h : Alike r r') :
    (∀ t, r = .next t → ∃ t', r' = .next t' ∧ t' = { t with mem := t'.mem } ∧
      ∀ a, t.mayRead a = true → t'.byteAt a = t.byteAt a) ∧
    (∀ f, r = .fault f → r' = .fault f) ∧ (∀ q, r = .refused q → r' = .refused q) := by
  cases h with
  | @next t m agree =>
    refine ⟨fun u hu => ?_, nofun, nofun⟩
    obtain rfl : t = u := Host.Outcome.next.inj hu
    exact ⟨{ t with mem := m }, rfl, rfl, agree⟩
  | fault f => exact ⟨fun _ h => (nomatch h), fun _ h => h, nofun⟩
  | refused q => exact ⟨fun _ h => (nomatch h), nofun, fun _ h => h⟩

/-- Settles O51: the two states take alike steps, since an operation reads only bytes on which the
two memories agree. -/
theorem unreadableMemoryNotObserved : Obligations.UnreadableMemoryNotObserved := by
  intro s m h
  have hs : Alike (step s) (step { s with mem := m }) := AgreesOnReadable.step h
  exact hs.answers

/-! The places of a buffer that does not wrap (R75). -/

theorem addr_offset_toNat {a : Addr} {n i : Nat} (hp : a.toNat + n ≤ Config.addrSpace)
    (hi : i < n) : (a + BitVec.ofNat 32 i).toNat = a.toNat + i := by
  unfold Config.addrSpace at hp
  rw [BitVec.toNat_add, BitVec.toNat_ofNat, Nat.add_mod_mod]
  exact Nat.mod_eq_of_lt (by omega)

/-- A store at one place of a buffer leaves a place elsewhere, in the same buffer or in another. -/
theorem storeByte_byteAt_offset {a b : Addr} {n i j : Nat} (g : MemAgent) (v : Byte) (s : State)
    (ha : a.toNat + n ≤ Config.addrSpace) (hb : b.toNat + n ≤ Config.addrSpace) (hi : i < n)
    (hj : j < n) (hne : a.toNat + i ≠ b.toNat + j) :
    (storeByte g (b + BitVec.ofNat 32 j) v s).byteAt (a + BitVec.ofNat 32 i) =
      s.byteAt (a + BitVec.ofNat 32 i) :=
  storeByte_byteAt_other g v s fun he =>
    hne (by rw [← addr_offset_toNat ha hi, ← addr_offset_toNat hb hj, he])

/-- A beat goes from the place of byte `n - k` to the next one. -/
theorem nextAddr_offset (a : Addr) {k : Len} {n : Nat} (hk : k ≠ 0) (hn : k.toNat ≤ n) :
    nextAddr true (a + BitVec.ofNat 32 (n - k.toNat)) =
      a + BitVec.ofNat 32 (n - (k - 1).toNat) := by
  have hidx : n - (k - 1).toNat = n - k.toNat + 1 := by bv_omega
  rw [hidx, BitVec.ofNat_add, ← BitVec.add_assoc]
  rfl

/-- The descriptor a wired channel is loaded with. -/
theorem Channel.isWired.loaded_fields {c : Channel} {dir : Bool} {a : Addr} {k : Len}
    {d : Descriptor} (hw : c.isWired dir) (ha : c.maddr = some a) (hk : c.cnt = some k)
    (hl : c.loaded = some d) : d.maddr = a ∧ d.cnt = k ∧ d.minc = true := by
  obtain ⟨-, hma, hct, -, hmi, -⟩ := Channel.loaded_eq_some.mp hl
  obtain ⟨-, -, hinc, -⟩ := hw
  exact ⟨Option.some.inj (hma.symm.trans ha), Option.some.inj (hct.symm.trans hk),
    Option.some.inj (hmi.symm.trans hinc)⟩

/-! The bytes inside the engine (R257). -/

@[simp] theorem oneIf_true : oneIf true = 1 := rfl

@[simp] theorem oneIf_false : oneIf false = 0 := rfl

/-! The bytes of a transaction on the loop-back bus (R90, R247, R257). -/

/-- The progress of a transaction of `n` bytes that has `t` bytes to hand over and `r` to land: the
parts of `Echoing.progress`, named. -/
structure Carrying (tx rx : Addr) (n : Nat) (img : Nat → Byte) (t r : Len) (s : State) : Prop where
  /-- The bytes left to hand over. -/
  txCnt : s.tx.cnt = some t
  /-- The bytes left to land. -/
  rxCnt : s.rx.cnt = some r
  /-- No more bytes are left than the transaction has. -/
  bound : r.toNat ≤ n
  /-- RX lags TX by the bytes inside the engine (R257). -/
  balance : r.toNat = t.toNat + bytesInside s
  /-- The RX request line is on. -/
  line : s.dmar = true
  /-- Channel RX runs while bytes are left to land. -/
  started : r ≠ 0 → s.rx.en = true
  /-- The next byte to hand over. -/
  txAddr : s.tx.maddr = some (tx + BitVec.ofNat 32 (n - t.toNat))
  /-- The place of the next byte to land. -/
  rxAddr : s.rx.maddr = some (rx + BitVec.ofNat 32 (n - r.toNat))
  /-- The outgoing buffer holds the image. -/
  outgoing : ∀ i, i < n → s.byteAt (tx + BitVec.ofNat 32 i) = img i
  /-- So does the part of the incoming buffer that has landed. -/
  landed : ∀ i, i < n - r.toNat → s.byteAt (rx + BitVec.ofNat 32 i) = img i
  /-- RDR holds the next byte to land. -/
  received : s.rxne = true → s.rdr = some (img (n - r.toNat))
  /-- The frame on the wire follows RDR's byte. -/
  onWire : s.busy = true →
    s.tsr = some (img (n - r.toNat + oneIf s.rxne)) ∧ s.fdiv.isSome = true
  /-- TDR's byte follows the one on the wire. -/
  waiting : s.txe = false → s.tdr = some (img (n - r.toNat + oneIf s.rxne + oneIf s.busy))

section

variable {tx rx : Addr} {n : Nat} {img : Nat → Byte} {s : State}

theorem Echoing.carrying (h : Echoing tx rx n img s) : ∃ t r, Carrying tx rx n img t r s := by
  obtain ⟨t, r, txCnt, rxCnt, bound, balance, line, started, txAddr, rxAddr, outgoing, landed,
    received, onWire, waiting⟩ := h.progress
  exact ⟨t, r, txCnt, rxCnt, bound, balance, line, started, txAddr, rxAddr, outgoing, landed,
    received, onWire, waiting⟩

/-- A step that leaves the bus as it is and the channels wired keeps the echo with the progress. -/
theorem Echoing.of_carrying (h : Echoing tx rx n img s) {u : State} {t r : Len}
    (hl : u.launch = s.launch) (hw : u.tx.isWired true ∧ u.rx.isWired false)
    (hc : Carrying tx rx n img t r u) : Echoing tx rx n img u where
  bus := fun k b d => hl ▸ h.bus k b d
  placed := h.placed
  disjoint := h.disjoint
  wiring := hw
  progress := ⟨t, r, hc.txCnt, hc.rxCnt, hc.bound, hc.balance, hc.line, hc.started, hc.txAddr,
    hc.rxAddr, hc.outgoing, hc.landed, hc.received, hc.onWire, hc.waiting⟩

/-- SHIFT.start puts TDR's byte on the wire (R244). -/
theorem Carrying.afterShiftStart {t r : Len} (h : Carrying tx rx n img t r s) (hx : s.txe = false)
    (hb : s.busy = false) {b : Byte} (htdr : s.tdr = some b) (d : Divisor) :
    Carrying tx rx n img t r (flagsAfterStart { s with tsr := some b, fdiv := some d }) :=
  { h with
    balance := by simpa [bytesInside, hx, hb] using h.balance
    onWire := fun _ => ⟨by simpa [htdr, hb] using h.waiting hx, rfl⟩
    waiting := nofun }

/-- SHIFT.complete puts the frame's byte, which the loop-back bus answers, into RDR (R246, R247). -/
theorem Carrying.afterShiftComplete {t r : Len} (h : Carrying tx rx n img t r s)
    (hb : s.busy = true) (hx : s.rxne = false) {b : Byte} (htsr : s.tsr = some b) :
    Carrying tx rx n img t r
      (flagsAfterComplete { s with rdr := some b, frames := s.frames + 1 }) :=
  { h with
    balance := by simpa [bytesInside, hx, hb] using h.balance
    received := fun _ => by simpa [htsr, hx] using (h.onWire hb).1
    onWire := nofun
    waiting := fun ht => by simpa [hb, hx] using h.waiting ht }

/-- A DMA.TX beat puts the next byte of the outgoing buffer into TDR (R250). -/
theorem Carrying.afterTxBeat {t r : Len} (h : Carrying tx rx n img t r s) (hw : s.tx.isWired true)
    (hq : s.reqTx = true) {d : Descriptor} (hl : s.tx.loaded = some d) :
    Carrying tx rx n img (t - 1) r (setTx (s.tx.afterBeat d)
      (writeDataRegister (s.byteAt d.maddr) (noteRead .dmaTx d.maddr s))) := by
  obtain ⟨-, hx, -, hn⟩ := reqTx_iff.mp hq
  have ht := Channel.loaded_cnt_ne_zero hl hn
  obtain ⟨hm, rfl, hinc⟩ := hw.loaded_fields h.txAddr h.txCnt hl
  have hpred : (d.cnt - 1).toNat + 1 = d.cnt.toNat := by bv_omega
  have hbal : r.toNat = d.cnt.toNat + (oneIf s.busy + oneIf s.rxne) := by
    simpa [bytesInside, hx] using h.balance
  have hbound := h.bound
  have hbyte : s.byteAt d.maddr = img (n - r.toNat + oneIf s.rxne + oneIf s.busy) := by
    rw [hm, h.outgoing _ (by omega)]
    congr 1
    omega
  exact { h with
    txCnt := rfl
    balance := by
      change r.toNat = (d.cnt - 1).toNat + (1 + oneIf s.busy + oneIf s.rxne)
      omega
    txAddr := by
      rw [setTx_tx, Channel.afterBeat_maddr, hinc, hm, nextAddr_offset tx ht (by omega)]
    waiting := fun _ => congrArg some hbyte }

/-- A DMA.RX beat lands RDR's byte in its place of the incoming buffer, clear of the bytes landed
before and of the outgoing buffer (R89, R252). -/
theorem Echoing.carrying_afterRxBeat (h : Echoing tx rx n img s) {t r : Len}
    (hc : Carrying tx rx n img t r s) (hq : s.reqRx = true) {d : Descriptor}
    (hl : s.rx.loaded = some d) {b : Byte} (hb : s.rdr = some b) :
    Carrying tx rx n img t (r - 1)
      (setRx (s.rx.afterBeat d) (storeByte .dmaRx d.maddr b (afterDataRead s))) := by
  obtain ⟨-, hx, he, hn⟩ := reqRx_iff.mp hq
  have hr := Channel.loaded_cnt_ne_zero hl hn
  obtain ⟨hm, rfl, hinc⟩ := h.wiring.2.loaded_fields hc.rxAddr hc.rxCnt hl
  obtain rfl : b = img (n - d.cnt.toNat) := Option.some.inj (hb.symm.trans (hc.received hx))
  obtain ⟨htx, hrx⟩ := h.placed
  have hpred : (d.cnt - 1).toNat + 1 = d.cnt.toNat := by bv_omega
  have hbound := hc.bound
  have hplace : n - d.cnt.toNat < n := by omega
  have hnext : n - (d.cnt - 1).toNat = n - d.cnt.toNat + 1 := by omega
  have hbal : d.cnt.toNat = t.toNat + (oneIf (!s.txe) + oneIf s.busy + 1) := by
    simpa [bytesInside, hx] using hc.balance
  exact { hc with
    rxCnt := rfl
    bound := by omega
    balance := by
      change (d.cnt - 1).toNat = t.toNat + (oneIf (!s.txe) + oneIf s.busy + 0)
      omega
    started := fun hne => by simpa [he] using hne
    rxAddr := by
      rw [setRx_rx, Channel.afterBeat_maddr, hinc, hm, nextAddr_offset rx hr hbound]
    outgoing := fun i hi => by
      have hapart : tx.toNat + i ≠ rx.toNat + (n - d.cnt.toNat) := by
        have := h.disjoint
        omega
      rw [hm]
      exact (storeByte_byteAt_offset .dmaRx _ _ htx hrx hi hplace hapart).trans (hc.outgoing i hi)
    landed := fun i hi => by
      rw [hm]
      obtain hi | rfl : i < n - d.cnt.toNat ∨ i = n - d.cnt.toNat := by omega
      · exact (storeByte_byteAt_offset .dmaRx _ _ hrx hrx (by omega) hplace (by omega)).trans
          (hc.landed i hi)
      · exact storeByte_byteAt_same .dmaRx _ _ (afterDataRead s)
    received := nofun
    onWire := fun hbusy => by
      rw [hnext]
      simpa [hx] using hc.onWire hbusy
    waiting := fun htxe => by
      rw [hnext]
      simpa [hx] using hc.waiting htxe }

/-- Every step of an agent other than HOST. -/
theorem Echoing.agentStep (h : Echoing tx rx n img s) {a : Actor} {u : State} (ha : a ≠ .host)
    (hs : actorStep a s = .next u) : Echoing tx rx n img u := by
  obtain ⟨t, r, hc⟩ := h.carrying
  obtain ⟨htx, hrx⟩ := h.wiring
  obtain ⟨f, rfl⟩ | rfl | ⟨-, hr, b, d, hb, -, rfl⟩ | ⟨-, hr, b, d, b', hb, -, hbus, hx, rfl⟩ |
    ⟨-, hr, d, hl, -, -, rfl⟩ | ⟨-, hr, d, b, hl, hb, -, -, rfl⟩ | ⟨-, -, rfl⟩ |
    ⟨-, -, ⟨-, -, -, -, -, rfl⟩ | ⟨-, -, -, rfl⟩⟩ := agentStep_next ha hs
  · exact { h with }
  · exact h
  · obtain ⟨-, -, hx, hbusy⟩ := shiftStartReady_iff.mp hr
    exact h.of_carrying rfl h.wiring (hc.afterShiftStart hx hbusy hb d)
  · obtain ⟨-, hbusy, -⟩ := shiftCompleteReady_iff.mp hr
    obtain rfl : b = b' := Option.some.inj ((h.bus _ b d).symm.trans hbus)
    exact h.of_carrying rfl h.wiring { hc.afterShiftComplete hbusy hx hb with }
  · exact h.of_carrying rfl ⟨htx.afterBeat hl, hrx⟩
      (hc.afterTxBeat htx (dmaTxReady_iff.mp hr).2.1 hl)
  · exact h.of_carrying rfl ⟨htx, hrx.afterBeat hl⟩
      (h.carrying_afterRxBeat hc (dmaRxReady_iff.mp hr).2.1 hl hb)
  · exact { h with }
  · exact { h with }
  · exact { h with }

/-- With no byte left to land, the incoming buffer holds the bytes of the outgoing one. -/
theorem Echoing.buffers_eq (h : Echoing tx rx n img s) (h0 : s.rx.cnt = some 0) {i : Nat}
    (hi : i < n) : s.byteAt (rx + BitVec.ofNat 32 i) = s.byteAt (tx + BitVec.ofNat 32 i) := by
  obtain ⟨t, r, hc⟩ := h.carrying
  obtain rfl : r = 0 := Option.some.inj (hc.rxCnt.symm.trans h0)
  rw [hc.landed i hi, hc.outgoing i hi]

end

/-- Settles O60: each agent's step keeps every byte in its place, and with none left to land all
have landed. -/
theorem loopbackEchoesInOrder : Obligations.LoopbackEchoesInOrder := by
  intro tx rx n img
  refine ⟨fun s u h ht hs => ?_, fun s h h0 i hi => h.buffers_eq h0 hi⟩
  have hu : Echoing tx rx n img (useChoice s) := { h with }
  exact hu.agentStep ht (step_next hs).2

/-! Accesses of MEM (R71, R74). -/

/-- No agent but the receive channel writes MEM (R66). -/
theorem dmaRx_of_writes_mem {a : Actor} (h : Element.mem ∈ agentWrites a) : a = .dmaRx := by
  cases a <;> simp [agentWrites] at h ⊢

/-- A byte that a store inside WR changes lies in WR. -/
theorem mayWrite_of_storeByte_ne {g : MemAgent} {x a : Addr} {v : Byte} {s : State}
    (hx : s.mayWrite x = true) (hne : (storeByte g x v s).byteAt a ≠ s.byteAt a) :
    s.mayWrite a = true := by
  obtain rfl : a = x := by_contra fun h => hne (storeByte_byteAt_other g v s h)
  exact hx

/-- A byte that a step changes lies in WR (R74). -/
theorem step_mayWrite {s t : State} (h : step s = .next t) {a : Addr}
    (hne : t.byteAt a ≠ s.byteAt a) : s.mayWrite a = true := by
  cases step_writtenBy (e := .mem) h (fun hm => hne (hm a)) (by simp) with
  | instr i _ _ hE hw =>
    obtain ⟨addr, rfl⟩ := get_of_writes_mem hw
    obtain ⟨-, -, -, hm, b, -, rfl⟩ := hE
    exact mayWrite_of_storeByte_ne (g := .host) (s := useChoice s) hm hne
  | agent _ ha hw =>
    rw [dmaRx_of_writes_mem hw] at ha
    obtain ⟨f, rfl⟩ | rfl | ⟨d, b, -, -, hm, rfl⟩ := dmaRxStep_next ha
    · exact absurd rfl hne
    · exact absurd rfl hne
    · exact mayWrite_of_storeByte_ne (g := .dmaRx) (s := afterDataRead (useChoice s)) hm hne

/-- A read of MEM that an instruction records is PUT's, inside RD. -/
theorem Effect.memR_admitted {i : Instr} {s t : State} {g : MemAgent} {a : Addr} {v : Byte}
    (h : Effect s t i) (ht : t.hist = s.hist ++ [.memR g a v]) :
    s.mayRead a = true ∧ v = s.byteAt a := by
  by_cases hw : Element.hist ∈ instrWrites i
  case neg =>
    have hs : t.hist = s.hist := h.changesOnly.elements .hist hw
    simp [hs] at ht
  cases i with
  | put addr =>
    obtain ⟨-, -, -, -, hr, rfl⟩ := h
    obtain ⟨-, rfl, rfl⟩ : .host = g ∧ addr = a ∧ s.byteAt addr = v := by simpa using ht
    exact ⟨hr, rfl⟩
  | clkrd | doneset | iret => obtain ⟨-, rfl⟩ := h; simp at ht
  | doneclr => obtain ⟨-, -, -, rfl⟩ := h; simp at ht
  | brgld => obtain ⟨-, -, -, -, f, -, -, rfl⟩ := h; simp at ht
  | get => obtain ⟨-, -, -, -, b, -, rfl⟩ := h; simp at ht
  | _ => simp [instrWrites] at hw

/-- A read of MEM that another agent records is the transmit channel's, inside RD. -/
theorem agentStep_memR_admitted {x : Actor} {s t : State} {g : MemAgent} {a : Addr} {v : Byte}
    (hx : x ≠ .host) (h : actorStep x s = .next t) (ht : t.hist = s.hist ++ [.memR g a v]) :
    s.mayRead a = true ∧ v = s.byteAt a := by
  obtain ⟨f, rfl⟩ | rfl | ⟨-, -, b, d, -, -, rfl⟩ | ⟨-, -, b, d, r, -, -, -, -, rfl⟩ |
    ⟨-, -, d, -, -, hr, rfl⟩ | ⟨-, -, d, b, -, -, -, -, rfl⟩ | ⟨-, -, rfl⟩ |
    ⟨-, -, ⟨c, d, -, -, -, rfl⟩ | ⟨c, -, -, rfl⟩⟩ := agentStep_next hx h
  case inr.inr.inr.inr.inl =>
    obtain ⟨-, rfl, rfl⟩ : .dmaTx = g ∧ d.maddr = a ∧ s.byteAt d.maddr = v := by simpa using ht
    exact ⟨hr, rfl⟩
  all_goals simp at ht

/-- A read of MEM that a step records is inside RD, and of the byte as it was (R71, R74). -/
theorem step_memR_admitted {s t : State} (h : step s = .next t) {g : MemAgent} {a : Addr} {v : Byte}
    (ht : t.hist = s.hist ++ [.memR g a v]) : s.mayRead a = true ∧ v = s.byteAt a := by
  cases step_writtenBy (e := .hist) h (by simp [Element.same, ht]) (by simp) with
  | instr i _ _ hE _ => exact hE.memR_admitted ht
  | agent hx ha _ => exact agentStep_memR_admitted (s := useChoice s) hx ha ht

/-- Settles O50: MEM is written by GET and the DMA.RX beat and read by PUT and the DMA.TX beat, each
after its own check. -/
theorem memoryOnlyWhereAdmitted : Obligations.MemoryOnlyWhereAdmitted :=
  fun _ _ h => ⟨fun _ => step_mayWrite h, fun _ _ _ => step_memR_admitted h⟩

end Sys2Proof.Machine
end

section
/-! PROOFS of the family 30_encoding: the decoder and the encoder are inverse (R101, R105, R106), which
words are illegal (R110), the mask and match of each row (R106), the program check of the expansions
(R111), and HOST's fetch and prelude (R107). -/

namespace Sys2Proof

/-! Decoding and encoding (R101, R105, R106). -/

/-- The word of a well-formed instruction decodes to it. -/
theorem decode_encode {i : Instr} (h : i.wellFormed = true) : decode (encode i) = .instr i := by
  rw [decode_encode_fields]
  cases i with
  | bue s => exact formatS_immediate .bue s
  | fclr m => exact formatM_immediate .fclr m (by simpa [Instr.wellFormed] using h)
  | lenldTx len => exact formatL_immediate .lenldTx len
  | lenldRx len => exact formatL_immediate .lenldRx len
  | wdone b => exact formatH_immediate .wdone b
  | _ => rfl

/-- An immediate that an instruction's row of the opcode map accepts is the immediate of a well-formed
instruction of that row. -/
theorem decodeFields_opcode_instr {i j : Instr} {imm : Imm}
    (h : decodeFields i.opcode imm = .instr j) :
    j.opcode = i.opcode ∧ j.immediate = imm ∧ j.wellFormed = true := by
  cases i with
  | bue => obtain ⟨s, rfl, rfl⟩ := formatS_eq h; exact ⟨rfl, rfl, rfl⟩
  | brgld | maldTx | maldRx | put | get => obtain rfl := formatWhole_eq h; exact ⟨rfl, rfl, rfl⟩
  | fclr =>
    obtain ⟨m, hm, rfl, rfl⟩ := formatM_eq h
    exact ⟨rfl, rfl, by simpa [Instr.wellFormed] using hm⟩
  | lenldTx | lenldRx => obtain ⟨len, rfl, rfl⟩ := formatL_eq h; exact ⟨rfl, rfl, rfl⟩
  | wdone => obtain ⟨b, rfl, rfl⟩ := formatH_eq h; exact ⟨rfl, rfl, rfl⟩
  | _ => obtain ⟨rfl, rfl⟩ := formatN_eq h; exact ⟨rfl, rfl, rfl⟩

/-- One instruction of every row of the opcode map (R105). -/
def opcodeRows : List Instr :=
  [.bue 0, .clken, .pincfg, .dmawire, .irqen, .uedis, .clkrd, .brgld 0, .ueen, .fclr 0, .lenldTx 0,
    .maldTx 0, .lenldRx 0, .maldRx 0, .doneclr, .drqen, .tcien, .chenRx, .chenTx, .wdone false,
    .drqdis, .doneset, .iret, .put 0, .wtxe, .wrxne, .get 0]

/-- An opcode of no instruction is reserved (R112). -/
theorem decodeFields_reserved {op : Opcode} (imm : Imm) (h : ∀ i : Instr, i.opcode ≠ op) :
    decodeFields op imm = .illegalOp := by
  have hrows : op.toNat ∉ opcodeRows.map (·.opcode.toNat) := by
    rw [List.mem_map]
    exact fun ⟨i, _, hi⟩ => h i (BitVec.eq_of_toNat_eq hi)
  unfold decodeFields
  split
  case h_28 => rfl
  all_goals next hop => exact absurd (by rw [hop]; decide) hrows

/-- A check of an immediate does not answer `ILLEGAL_OP`. -/
theorem ite_ne_illegalOp {c : Prop} [Decidable c] (i : Instr) :
    (if c then Decoded.instr i else .illegalImm) ≠ .illegalOp := by
  split <;> nofun

/-- The opcode of an instruction is not reserved. -/
theorem decodeFields_opcode_ne_illegalOp (i : Instr) (imm : Imm) :
    decodeFields i.opcode imm ≠ .illegalOp := by
  cases i with
  | brgld | maldTx | maldRx | put | get => nofun
  | _ => exact ite_ne_illegalOp _

/-- `ILLEGAL_OP` is the answer to the opcodes of no instruction (R110). -/
theorem decode_illegalOp_iff {w : Word} :
    decode w = .illegalOp ↔ ∀ i : Instr, i.opcode ≠ opField w := by
  refine ⟨fun h i hi => ?_, decodeFields_reserved _⟩
  rw [decode, ← hi] at h
  exact decodeFields_opcode_ne_illegalOp i _ h

/-- The opcode of a word is an instruction's exactly when the word is not `ILLEGAL_OP`. -/
theorem exists_opcode_iff {w : Word} :
    (∃ i : Instr, i.opcode = opField w) ↔ decode w ≠ .illegalOp := by
  simp [decode_illegalOp_iff]

/-- A word that decodes is the word of a well-formed instruction. -/
theorem encode_of_decode {w : Word} {i : Instr} (h : decode w = .instr i) :
    encode i = w ∧ i.wellFormed = true := by
  obtain ⟨j, hj⟩ := (exists_opcode_iff (w := w)).mpr (by simp [h])
  rw [decode, ← hj] at h
  obtain ⟨hop, himm, hwf⟩ := decodeFields_opcode_instr h
  exact ⟨by rw [encode, hop, hj, himm, word_eq_append], hwf⟩

/-- Between the words that decode and the well-formed instructions, decoding inverts encoding. -/
theorem decode_eq_instr_iff {w : Word} {i : Instr} :
    decode w = .instr i ↔ encode i = w ∧ i.wellFormed = true :=
  ⟨encode_of_decode, fun ⟨hw, hwf⟩ => hw ▸ decode_encode hwf⟩

/-- `ILLEGAL_IMM` is the answer to every other word that does not decode (R110). -/
theorem decode_illegalImm_iff {w : Word} : decode w = .illegalImm ↔
    (∃ i : Instr, i.opcode = opField w) ∧ ∀ i : Instr, i.wellFormed = true → encode i ≠ w := by
  have hno : (∀ i : Instr, i.wellFormed = true → encode i ≠ w) ↔ ∀ i, decode w ≠ .instr i := by
    simp only [ne_eq, decode_eq_instr_iff, not_and']
  rw [exists_opcode_iff, hno]
  cases decode w <;> simp

/-- Settles O1: each format's decoding gives back the operand its immediate was made of. -/
theorem decodeInvertsEncode : Obligations.DecodeInvertsEncode :=
  fun _ => decode_encode

/-- Settles O2: the opcode fixes the row, and the row's format fixes the operand. -/
theorem encodeInvertsDecode : Obligations.EncodeInvertsDecode :=
  fun _ _ => encode_of_decode

/-- Settles O3: the reserved opcodes, and what is left when the words that decode are taken away. -/
theorem illegalWords : Obligations.IllegalWords :=
  ⟨fun _ => decode_illegalOp_iff, fun _ => decode_illegalImm_iff, rfl, rfl⟩

/-- Settles O5: each word is the encoder's for its instruction. -/
theorem specWordsDecode : Obligations.SpecWordsDecode :=
  ⟨decode_encode (i := .bue 4) rfl, decode_encode (i := .brgld 9600) rfl,
    decode_encode (i := .fclr 2) rfl, decode_encode (i := .lenldTx 65535) rfl,
    decode_encode (i := .maldRx 0xCAFEF00D) rfl, decode_encode (i := .wdone true) rfl,
    decode_encode (i := .get 0x20000100) rfl, rfl⟩

/-! Mask and match (R106). -/

/-- The word of every instruction matches its row of the opcode table. -/
theorem encode_and_maskWord (i : Instr) : encode i &&& i.maskWord = i.matchWord := by
  cases i with
  | bue s => exact Laws.OpcodeTable.bue s
  | brgld rate => exact Laws.OpcodeTable.brgld rate
  | fclr m => exact Laws.OpcodeTable.fclr m
  | lenldTx len => exact Laws.OpcodeTable.lenldTx len
  | maldTx addr => exact Laws.OpcodeTable.maldTx addr
  | lenldRx len => exact Laws.OpcodeTable.lenldRx len
  | maldRx addr => exact Laws.OpcodeTable.maldRx addr
  | wdone h => exact Laws.OpcodeTable.wdone h
  | put addr => exact Laws.OpcodeTable.put addr
  | get addr => exact Laws.OpcodeTable.get addr
  | _ => rfl

/-- Every mask covers the opcode. -/
theorem opField_maskWord (i : Instr) : opField i.maskWord = BitVec.allOnes 8 := by
  cases i <;> simp [opField, Instr.maskWord]

/-- A word that matches a row has the row's opcode, and zeros where the mask covers the immediate. -/
theorem fields_of_masked {w : Word} {i : Instr} (h : w &&& i.maskWord = i.matchWord) :
    opField w = i.opcode ∧ immField w &&& immField i.maskWord = 0 := by
  rw [← word_eq_append w, ← word_eq_append i.maskWord, opField_maskWord,
    Laws.OpcodeTable.append_and, BitVec.and_allOnes] at h
  exact ⟨by simpa [Instr.matchWord] using congrArg opField h,
    by simpa [Instr.matchWord] using congrArg immField h⟩

/-- The high part of a vector is zero if masking all but the low part leaves zero. -/
theorem high_zero_of_masked {n m : Nat} {v : BitVec (n + m)}
    (h : v &&& (BitVec.allOnes n ++ 0#m) = 0) : v.extractLsb' m n = 0 := by
  rw [← append_of_parts v, Laws.OpcodeTable.append_and, BitVec.and_allOnes] at h
  simpa [append_high] using congrArg (BitVec.extractLsb' m n) h

/-- A row accepts the immediates with zeros where its mask covers them, format M's mask 0 aside. -/
theorem decodeFields_opcode_of_masked {i : Instr} {imm : Imm}
    (h : imm &&& immField i.maskWord = 0) (hm : i.opcode = 0x10 → imm.extractLsb' 0 2 ≠ 0) :
    ∃ j, decodeFields i.opcode imm = .instr j := by
  cases i <;> dsimp only [Instr.maskWord] at h
  case bue => exact ⟨_, if_pos (high_zero_of_masked (n := 24) (m := 8) h)⟩
  case brgld | maldTx | maldRx | put | get => exact ⟨_, rfl⟩
  case fclr => exact ⟨_, if_pos ⟨high_zero_of_masked (n := 30) (m := 2) h, hm rfl⟩⟩
  case lenldTx | lenldRx => exact ⟨_, if_pos (high_zero_of_masked (n := 16) (m := 16) h)⟩
  case wdone => exact ⟨_, if_pos (high_zero_of_masked (n := 31) (m := 1) h)⟩
  all_goals exact ⟨_, if_pos (BitVec.and_allOnes.symm.trans h)⟩

/-- Settles O4: the encoder's word matches its row, and the row accepts what its mask lets through. -/
theorem maskAndMatch : Obligations.MaskAndMatch := by
  refine fun w i => ⟨fun h => ?_, fun h hm => ?_⟩
  · rw [← (encode_of_decode h).1]
    exact encode_and_maskWord i
  · obtain ⟨hop, himm⟩ := fields_of_masked h
    obtain ⟨j, hj⟩ := decodeFields_opcode_of_masked himm (by simpa [immField] using hm)
    exact ⟨j, by rw [decode, hop, hj], (decodeFields_opcode_instr hj).1⟩

end Sys2Proof

namespace Sys2Proof.Machine

/-! The program check of the expansions (R111, R116). -/

/-- An instruction that stands anywhere in an accepted program: well-formed, and no BUE (R111). -/
def FitsAnywhere (i : Instr) : Prop :=
  i.wellFormed = true ∧ ∀ n p, skipFits n p i = true

/-- The check of a word the encoder made is format S's constraint alone. -/
theorem wordsAccepted_encode_cons {i : Instr} (h : i.wellFormed = true) (n p : Nat)
    (ws : List Word) :
    wordsAccepted n p (encode i :: ws) = (skipFits n p i && wordsAccepted n (p + 1) ws) := by
  rw [wordsAccepted, decode_encode h]

/-- Instructions that fit anywhere are accepted from every index on. -/
theorem wordsAccepted_words {l : List Instr} (h : ∀ i ∈ l, FitsAnywhere i) (n p : Nat) :
    wordsAccepted n p (words l) = true := by
  induction l generalizing p with
  | nil => rfl
  | cons i l ih =>
    obtain ⟨⟨hwf, hfit⟩, hl⟩ := List.forall_mem_cons.mp h
    exact (wordsAccepted_encode_cons hwf n p _).trans (by rw [hfit, ← words, ih hl]; rfl)

theorem configure_accepted (rate : Rate) : programAccepted (words (configure rate)) = true := by
  have htail : ∀ i ∈ (configure rate).tail, FitsAnywhere i := by
    simp [configure, FitsAnywhere, skipFits, Instr.wellFormed]
  exact (wordsAccepted_encode_cons (i := .bue 4) rfl 9 0 _).trans (wordsAccepted_words htail 9 1)

theorem dmaSequence_fits (tx rx : Addr) (len : Len) (h : Bool) :
    ∀ i ∈ dmaSequence tx rx len h, FitsAnywhere i := by
  simp [dmaSequence, FitsAnywhere, skipFits, Instr.wellFormed]

theorem pollSequence_fits (tx rx : Addr) (k n : Nat) :
    ∀ i ∈ pollSequence tx rx k n, FitsAnywhere i := by
  induction n generalizing k with
  | zero => simp [pollSequence]
  | succ n ih =>
    have hpos : ∀ i ∈ pollPosition tx rx k, FitsAnywhere i := by
      simp [pollPosition, FitsAnywhere, skipFits, Instr.wellFormed]
    exact List.forall_mem_append.mpr ⟨hpos, ih (k + 1)⟩

/-- The expansion of a transfer that is not refused, on either path (R175, R176, R226). -/
theorem transfer_fits {path : XferPath} {tx rx : Addr} {len : Nat} {h : Bool} {l : List Instr}
    (ht : transfer path tx rx len h = some l) : ∀ i ∈ l, FitsAnywhere i := by
  unfold transfer at ht
  split at ht
  · cases ht
  split at ht
  · cases ht
    nofun
  cases path with
  | dma =>
    cases ht
    exact dmaSequence_fits tx rx _ h
  | poll =>
    obtain ⟨-, rfl⟩ : _ ∧ pollSequence tx rx 0 len = l := by simpa using ht
    exact pollSequence_fits tx rx 0 len

/-- Settles O6: no expansion but `configure` has a BUE, and its one ends before the program does. -/
theorem expansionsAccepted : Obligations.ExpansionsAccepted :=
  ⟨configure_accepted, fun _ _ _ _ _ _ ht => wordsAccepted_words (transfer_fits ht) _ 0⟩

/-! HOST's fetch and prelude (R107). -/

/-- Every instruction's rule stands behind the prelude its row of the table of R105 gives it. -/
theorem exec_eq_prelude (i : Instr) (s : State) :
    ∃ rule, exec i s = prelude i.inThread i.inHandler i.gated s rule := by
  cases i <;> exact ⟨_, rfl⟩

/-- An instruction in a context its row does not allow (R107 (4)). -/
theorem exec_context {i : Instr} {s : State} (hf : s.fault = none) (hc : ¬ Allowed i s) :
    faultsWith .context s (exec i s) := by
  obtain ⟨rule, h⟩ := exec_eq_prelude i s
  exact h ▸ prelude_context rule hf (Bool.eq_false_iff.mpr hc)

/-- An allowed gated instruction with the clock off (R107 (5)). -/
theorem exec_unclocked {i : Instr} {s : State} (hf : s.fault = none) (hc : Allowed i s)
    (hg : i.gated = true) (hk : s.clkOn = false) : faultsWith .unclocked s (exec i s) := by
  obtain ⟨rule, h⟩ := exec_eq_prelude i s
  rw [hg] at h
  exact h ▸ prelude_unclocked rule hf hc hk

/-- HOST's step, when it is offered one, is the answer to what it fetches. -/
theorem step_host {s : State} (hf : s.fault = none) (ht : s.turn = .host) :
    step s = hostStep (useChoice s) := by
  rw [step_eq hf, ht]
  rfl

/-- The step of a fetched word that decodes. -/
theorem step_fetched_instr {s : State} {w : Word} {i : Instr} (hf : s.fault = none)
    (ht : s.turn = .host) (hw : fetch s = fetchedWord w) (hd : decode w = .instr i) :
    step s = exec i (useChoice s) :=
  (step_host hf ht).trans (hostStep_instr (hw.trans (fetchedWord_instr hd)))

/-- The step of a fetched word that does not decode takes its fault (R107 (3)). -/
theorem step_fetched_illegal {s : State} {w : Word} {f : Fault} (hf : s.fault = none)
    (ht : s.turn = .host) (hw : fetch s = fetchedWord w) (hd : fetchedWord w = .illegal f) :
    faultsWith f (useChoice s) (step s) := by
  rw [step_host hf ht, hostStep, fetch_useChoice, hw, hd]
  rfl

/-- At the end of the thread program there is nothing to run (R107 (2)). -/
theorem fetch_ended {s : State} (ha : s.irqActive = false)
    (hpc : s.pc = s.launch.prog.length) : fetch s = .ended := by
  simp [fetch, ha, hpc]

/-- A word placed at an index is found there. -/
theorem placeWord_getElem? (prog : List Word) (n : Nat) (w : Word) :
    (placeWord prog n w)[n]? = some w := by
  have hlen : (prog.take n ++ List.replicate (n - prog.length) 0).length = n := by
    simp
    omega
  rw [placeWord, List.getElem?_append_right hlen.le, hlen, Nat.sub_self]
  rfl

/-- A word the host's decoder takes is one that decodes. -/
theorem decode_of_decodeTableWord {n w : Nat} {i : Instr} (h : decodeTableWord n w = some i) :
    decode (BitVec.ofNat 40 (w % 2 ^ n)) = .instr i := by
  simp only [decodeTableWord] at h
  split at h
  · split at h
    · next hd => rw [hd, Option.some.inj h]
    · cases h
    · cases h
  · cases h

/-- Settles O8: HOST finds the word at its counter in either context, and a placed one in THREAD. -/
theorem stepRunsFetchedInstruction : Obligations.StepRunsFetchedInstruction := by
  refine ⟨fun s w i hf ht hd => ⟨fun ha hw => ?_, fun ha hw => ?_⟩, fun s w i hd => ?_⟩
  · exact step_fetched_instr hf ht (fetch_thread ha hw) hd
  · exact step_fetched_instr hf ht (fetch_handler ha hw) hd
  · exact step_fetched_instr rfl rfl (fetch_thread rfl (placeWord_getElem? _ _ _))
      (decode_of_decodeTableWord hd)

/-- Settles O9: the fault record, the end of the program, the illegal words, then the prelude. -/
theorem hostStepChecksInOrder : Obligations.HostStepChecksInOrder := by
  refine fun s ht => ⟨fun f => step_faulted, fun hf ha hpc => ?_, fun hf w hw => ?_⟩
  · rw [step_host hf ht, hostStep, fetch_useChoice, fetch_ended ha hpc]
    rfl
  have hfetch : fetch s = fetchedWord w :=
    hw.elim (fun h => fetch_thread h.1 h.2) (fun h => fetch_handler h.1 h.2)
  refine ⟨fun hd => ?_, fun hd => ?_, fun i hd => ?_⟩
  · exact step_fetched_illegal hf ht hfetch (by rw [fetchedWord, hd])
  · exact step_fetched_illegal hf ht hfetch (by rw [fetchedWord, hd])
  · have hs : step s = exec i (useChoice s) := step_fetched_instr hf ht hfetch hd
    exact ⟨fun hc => hs ▸ exec_context hf hc, fun hc hg hk => hs ▸ exec_unclocked hf hc hg hk, hs⟩

end Sys2Proof.Machine
end

section
/-! PROOFS of the family 41_config: the exact next state and the faults, in order, of the nine
configuration instructions (R131 to R139), and the arithmetic of the divisor (R140, R141). -/

namespace Sys2Proof

/-! Illegal immediates (R110). -/

/-- Bits of the immediate are the word's bits at the same place. -/
theorem immField_extractLsb' (w : Word) {start len : Nat} (h : start + len ≤ 32) :
    (immField w).extractLsb' start len = w.extractLsb' start len := by
  ext i hi
  simp [immField, show start + i < 32 by omega]

/-- A word is decoded by the row of its opcode. -/
theorem decode_of_opField {w : Word} {op : Opcode} (h : opField w = op) :
    decode w = decodeFields op (immField w) := by
  rw [decode, h]

end Sys2Proof

namespace Sys2Proof.Machine

/-! The ways through an instruction's checks. -/

/-- An instruction of THREAD that ends advances `PC` (R130). -/
theorem finish_thread {s : State} (h : s.irqActive = false) :
    finish s = .next { s with pc := s.pc + 1 } :=
  congrArg Host.Outcome.next (advance_thread h)

/-- A check that fails takes its fault. -/
theorem faultsWith_require {ok : Bool} (f : Fault) {s : State} (r : Result) (h : ok = false) :
    faultsWith f s (require ok f s r) := by
  rw [h]
  rfl

/-- A check that passes leaves the answer to the rest. -/
theorem require_passes {ok : Bool} (f : Fault) (s : State) (r : Result) (h : ok = true) :
    require ok f s r = r := by
  rw [h]
  rfl

/-- What a gated instruction of THREAD does that demands `IDLE` and then leaves `t`: the clock gate
first, then the check of `IDLE`, then the action. -/
theorem gatedThread_idle {s t : State} (ht : t.irqActive = s.irqActive) :
    (ThreadReady s → s.clkOn = false →
      faultsWith .unclocked s (gatedThread s (require s.idle .busy s (finish t)))) ∧
    (GatedReady s → s.idle = false →
      faultsWith .busy s (gatedThread s (require s.idle .busy s (finish t)))) ∧
    (GatedReady s → s.idle = true →
      gatedThread s (require s.idle .busy s (finish t)) = .next { t with pc := t.pc + 1 }) := by
  refine ⟨fun h hk => gatedThread_unclocked h hk _, fun h hi => ?_, fun h hi => ?_⟩
  · rw [h.passes]
    exact faultsWith_require _ _ hi
  · rw [h.passes, require_passes _ _ _ hi]
    exact finish_thread (ht.trans h.2.1)

/-! The instructions that demand `IDLE` (R133, R134, R136). -/

/-- Settles O13: PINCFG demands `IDLE` and sets both pins. -/
theorem pincfgProgramsBothLines : Obligations.PincfgProgramsBothLines :=
  ⟨decode_encode (i := .pincfg) rfl, fun _ => gatedThread_idle rfl⟩

/-- Settles O14: DMAWIRE demands `IDLE` and wires both channels. -/
theorem dmawireLoadsStaticFields : Obligations.DmawireLoadsStaticFields :=
  ⟨decode_encode (i := .dmawire) rfl, fun _ => gatedThread_idle rfl⟩

/-- Settles O15: UEDIS demands `IDLE` and clears `UE` with `baud_tick`. -/
theorem uedisDisablesIdleEngine : Obligations.UedisDisablesIdleEngine :=
  ⟨decode_encode (i := .uedis) rfl, fun _ => gatedThread_idle rfl⟩

/-! The ungated instructions (R131, R132, R135, R137). -/

/-- Settles O11: format S refuses a bit above the skip count, and BUE takes its branch on `UE`. -/
theorem bueBranchesIfEnabled : Obligations.BueBranchesIfEnabled := by
  refine ⟨fun w hop himm => ?_, fun k => ⟨decode_encode (i := .bue k) rfl, fun s h => ?_⟩⟩
  · rw [← immField_extractLsb' w (by decide)] at himm
    exact (decode_of_opField hop).trans (if_neg himm)
  · have hexec : exec (.bue k) s =
        .next { s with pc := if s.ue then branchTarget s.pc k else s.pc + 1 } := h.passes _
    exact ⟨fun hu => by rw [hexec, hu]; rfl, fun hu => by rw [hexec, hu]; rfl⟩

/-- Settles O12: neither instruction has a check behind the prelude. -/
theorem clkenAndIrqenSetEnables : Obligations.ClkenAndIrqenSetEnables :=
  ⟨decode_encode (i := .clken) rfl, decode_encode (i := .irqen) rfl, fun _ h =>
    ⟨(h.passes _).trans (finish_thread h.2), (h.passes _).trans (finish_thread h.2)⟩⟩

/-- The next scripted answer of the clock query, where there is one. -/
theorem clockAnswer_scripted {s : State} {c : ClockAnswer} {cs : List ClockAnswer}
    (h : s.inputs.clocks = c :: cs) : s.clockAnswer = frequencyOf c := by
  rw [State.clockAnswer, h]

/-- Settles O16: the frequency is the answer drawn from the clock query. -/
theorem clkrdSamplesClock : Obligations.ClkrdSamplesClock := by
  refine ⟨decode_encode (i := .clkrd) rfl, fun s h => ⟨s.clockAnswer, ?_, fun c cs hc => ?_, ?_⟩⟩
  · exact frequencyOf_ne_zero _
  · rw [clockAnswer_scripted hc, frequencyOf_toNat]
  · exact (h.passes _).trans (finish_thread h.2)

/-! The divisor (R138, R139, R140, R141). -/

/-- UEEN needs a divisor. -/
theorem exec_ueen_uninit {s : State} (h : GatedReady s) (hd : s.brgDiv = none) :
    faultsWith .uninit s (exec .ueen s) := by
  change exec .ueen s = raise .uninit s
  refine (h.passes _).trans ?_
  rw [hd]

/-- UEEN with a divisor loaded. -/
theorem exec_ueen {s : State} (h : GatedReady s) {d : Divisor} (hd : s.brgDiv = some d) :
    exec .ueen s = finish (if s.ue then s else { s with ue := true, brgCnt := some d }) := by
  refine (h.passes _).trans ?_
  rw [hd]

/-- Settles O18: without a divisor UEEN has nothing to load; enabled already, it only advances. -/
theorem ueenEnablesEngine : Obligations.UeenEnablesEngine := by
  refine ⟨decode_encode (i := .ueen) rfl, fun s =>
    ⟨fun h hk => gatedThread_unclocked h hk _, exec_ueen_uninit, fun h d hd => ?_⟩⟩
  rw [exec_ueen h hd]
  obtain ⟨-, ha, -⟩ := h
  refine ⟨fun hu => ?_, fun hu => ?_⟩
  · rw [if_neg (by simp [hu])]
    exact finish_thread ha
  · rw [if_pos hu]
    exact finish_thread ha

/-- BRGLD needs a sampled clock, once it found the engine disabled. -/
theorem exec_brgld_uninit {s : State} (h : GatedReady s) (hu : s.ue = false) (hf : s.clkF = none)
    (rate : Rate) : faultsWith .uninit s (exec (.brgld rate) s) := by
  change exec (.brgld rate) s = raise .uninit s
  refine (h.passes _).trans ((require_passes _ _ _ (by simp [hu])).trans ?_)
  rw [hf]

/-- BRGLD with the engine disabled and a clock sampled: what is left are the checks of the rate and of
the divisor's range. -/
theorem exec_brgld {s : State} (h : GatedReady s) (hu : s.ue = false) {f : Freq}
    (hf : s.clkF = some f) {rate : Rate} {d : Nat} (hd : d = brgDivisor f.toNat rate.toNat) :
    exec (.brgld rate) s =
      require (rate ≠ 0) .divRange s (require (divisorFits d) .divRange s
        (finish (record (.divLoad rate f (BitVec.ofNat 16 d))
          { s with brgDiv := some (BitVec.ofNat 16 d), brgRate := some rate }))) := by
  refine (h.passes _).trans ((require_passes _ _ _ (by simp [hu])).trans ?_)
  rw [hf, hd]

/-- Settles O17: the clock gate, `UE`, the sampled clock, the rate, the divisor, then the load. -/
theorem brgldLoadsRoundedDivisor : Obligations.BrgldLoadsRoundedDivisor := by
  refine fun rate => ⟨decode_encode (i := .brgld rate) rfl, fun s =>
    ⟨fun h hk => gatedThread_unclocked h hk _, fun h hu => ?_,
      fun h hu hf => exec_brgld_uninit h hu hf rate,
      fun h hu f hf hr => ?_, fun h hu f d hf hr hd => ⟨fun hrange => ?_, fun hrange => ?_⟩⟩⟩
  · exact (h.passes _).trans (faultsWith_require .torn _ (by simp [hu]))
  · rw [exec_brgld h hu hf rfl]
    exact faultsWith_require _ _ (by simpa using hr)
  all_goals rw [exec_brgld h hu hf hd, require_passes _ _ _ (by simpa using hr)]
  · exact faultsWith_require _ _ (divisorFits_eq_false_iff.mpr hrange)
  · obtain ⟨-, ha, -⟩ := h
    rw [require_passes _ _ _ (divisorFits_iff.mpr hrange)]
    exact finish_thread ha

/-- The divisor times the rate is the clock plus half the rate, less a remainder below the rate. -/
theorem brgDivisor_mul_bounds (f : Nat) {rate : Nat} (h : 0 < rate) :
    brgDivisor f rate * rate ≤ f + rate / 2 ∧ f + rate / 2 < brgDivisor f rate * rate + rate :=
  ⟨Nat.div_mul_le_self _ _, Nat.lt_div_mul_add h⟩

/-- The divisor is 0 exactly when the clock is below half the rate. -/
theorem brgDivisor_eq_zero_iff (f : Nat) {rate : Nat} (h : 0 < rate) :
    brgDivisor f rate = 0 ↔ 2 * f < rate := by
  rw [brgDivisor, Nat.div_eq_zero_iff]
  omega

/-- Settles O19: the remainder is below the rate, and half the rate is exact when it is even. -/
theorem divisorIsNearest : Obligations.DivisorIsNearest := by
  intro f rate h
  obtain ⟨hlow, hhigh⟩ := brgDivisor_mul_bounds f h
  refine ⟨?_, ?_, fun heven => ?_, brgDivisor_eq_zero_iff f h⟩
  all_goals omega

end Sys2Proof.Machine
end

section
/-! PROOFS of the family 42_dma_xfer: the exact next state and the faults, in order, of the twelve DMA
instructions (R161 to R173). -/

namespace Sys2Proof

/-! Illegal immediates of the formats L, M and H (R101, R110). -/

theorem formatL_illegalImm (f : Len → Instr) {w : Word} (h : w.extractLsb' 16 16 ≠ 0#16) :
    formatL f (immField w) = .illegalImm :=
  if_neg (by rwa [immField_extractLsb' w (by decide)])

theorem formatH_illegalImm (f : Bool → Instr) {w : Word} (h : w.extractLsb' 1 31 ≠ 0#31) :
    formatH f (immField w) = .illegalImm :=
  if_neg (by rwa [immField_extractLsb' w (by decide)])

theorem formatM_illegalImm (f : BitVec 2 → Instr) {w : Word}
    (h : w.extractLsb' 0 2 = 0#2 ∨ w.extractLsb' 2 30 ≠ 0#30) :
    formatM f (immField w) = .illegalImm := by
  refine if_neg fun ⟨hzero, hmask⟩ => ?_
  rw [immField_extractLsb' w (by decide)] at hzero hmask
  exact h.elim hmask fun hne => hne hzero

end Sys2Proof

namespace Sys2Proof.Machine

/-! The ways through one check behind the prelude of a gated instruction. -/

/-- A gated instruction whose first check fails. -/
theorem GatedReady.faults {s : State} (h : GatedReady s) {ok : Bool} {f : Fault} (r : Result)
    (hok : ok = false) : faultsWith f s (gatedThread s (require ok f s r)) := by
  rw [h.passes]
  exact faultsWith_require f r hok

/-- A gated instruction that ends in `t` after one check that passes. -/
theorem GatedReady.finishes {s t : State} (h : GatedReady s) {ok : Bool} {f : Fault}
    (hok : ok = true) (ht : t.irqActive = s.irqActive) :
    gatedThread s (require ok f s (finish t)) = .next { t with pc := t.pc + 1 } := by
  rw [h.passes, require_passes _ _ _ hok]
  exact finish_thread (ht.trans h.2.1)

/-! The start of the channels (R170, R171). -/

/-- CHEN.RX needs the address and the count, once it found the channels wired. -/
theorem exec_chenRx_uninit {s : State} (h : GatedReady s) (hw : s.wired = true)
    (hnone : s.rx.maddr = none ∨ s.rx.cnt = none) : faultsWith .uninit s (exec .chenRx s) := by
  change exec .chenRx s = raise .uninit s
  refine (h.passes _).trans ((require_passes _ _ _ hw).trans ?_)
  split
  · next ha hn => simp [ha, hn] at hnone
  · rfl

/-- CHEN.RX with the channels wired and the descriptor loaded: what is left are the checks of the
channel and of its buffer. -/
theorem exec_chenRx {s : State} (h : GatedReady s) (hw : s.wired = true) {a : Addr} {n : Len}
    (ha : s.rx.maddr = some a) (hn : s.rx.cnt = some n) :
    exec .chenRx s = require (!s.rx.en) .busy s (require (wellPlaced a n) .mem s
      (finish { s with rx := { s.rx with en := true } })) := by
  refine (h.passes _).trans ((require_passes _ _ _ hw).trans ?_)
  rw [ha, hn]

/-- Settles O25: the clock gate, `WIRED`, the descriptor, the enable, the buffer's end,
then the start. -/
theorem chenRxStartsReceiver : Obligations.ChenRxStartsReceiver := by
  refine ⟨decode_encode (i := .chenRx) rfl, fun s =>
    ⟨fun h hk => gatedThread_unclocked h hk _, fun h hw => h.faults _ hw, exec_chenRx_uninit,
      fun h hw a n ha hn => ?_⟩⟩
  rw [exec_chenRx h hw ha hn]
  refine ⟨fun he => faultsWith_require _ _ (by simp [he]), fun he hmem => ?_, fun he hmem => ?_⟩
  all_goals rw [require_passes _ _ _ (by simp [he])]
  · exact faultsWith_require _ _ (wellPlaced_eq_false_iff.mpr hmem)
  · rw [require_passes _ _ _ (wellPlaced_iff.mpr hmem)]
    exact finish_thread h.2.1

/-- CHEN.TX needs the addresses and the counts of both channels, once it found them wired. -/
theorem exec_chenTx_uninit {s : State} (h : GatedReady s) (hw : s.wired = true)
    (hnone : s.tx.maddr = none ∨ s.tx.cnt = none ∨ s.rx.maddr = none ∨ s.rx.cnt = none) :
    faultsWith .uninit s (exec .chenTx s) := by
  change exec .chenTx s = raise .uninit s
  refine (h.passes _).trans ((require_passes _ _ _ hw).trans ?_)
  split
  · next hta htn hra hrn => simp [hta, htn, hra, hrn] at hnone
  · rfl

/-- CHEN.TX with the channels wired and both descriptors loaded: what is left are the checks of the
channel and of the two buffers. -/
theorem exec_chenTx {s : State} (h : GatedReady s) (hw : s.wired = true) {ta ra : Addr} {tn rn : Len}
    (hta : s.tx.maddr = some ta) (htn : s.tx.cnt = some tn) (hra : s.rx.maddr = some ra)
    (hrn : s.rx.cnt = some rn) :
    exec .chenTx s = require (!s.tx.en) .busy s (require (tn = rn) .lenMismatch s
      (require (wellPlaced ta tn) .mem s (require (!buffersOverlap ta tn ra rn) .overlap s
        (finish { s with tx := { s.tx with en := true } })))) := by
  refine (h.passes _).trans ((require_passes _ _ _ hw).trans ?_)
  rw [hta, htn, hra, hrn]

/-- Settles O26: the clock gate, `WIRED`, both descriptors, the enable, the lengths, the buffer's end,
the overlap, then the start. -/
theorem chenTxStartsTransmitter : Obligations.ChenTxStartsTransmitter := by
  refine ⟨decode_encode (i := .chenTx) rfl, fun s =>
    ⟨fun h hk => gatedThread_unclocked h hk _, fun h hw => h.faults _ hw, exec_chenTx_uninit,
      fun h hw ta tn ra rn hta htn hra hrn => ?_⟩⟩
  rw [exec_chenTx h hw hta htn hra hrn]
  refine ⟨fun he => faultsWith_require _ _ (by simp [he]), fun he hlen => ?_,
    fun he hlen hmem => ?_, fun he hlen hmem => ⟨fun hover => ?_, fun hover => ?_⟩⟩
  all_goals rw [require_passes _ _ _ (by simp [he])]
  · exact faultsWith_require _ _ (by simpa using hlen)
  all_goals rw [require_passes _ _ _ (by simpa using hlen)]
  · exact faultsWith_require _ _ (wellPlaced_eq_false_iff.mpr hmem)
  all_goals rw [require_passes _ _ _ (wellPlaced_iff.mpr hmem)]
  · exact faultsWith_require _ _ (by simpa using buffersOverlap_iff.mpr hover)
  · rw [require_passes _ _ _ (by simpa using buffersOverlap_eq_false_iff.mpr hover)]
    exact finish_thread h.2.1

/-! The status flags (R161). -/

/-- FCLR is allowed in both contexts. -/
theorem allowed_fclr (m : BitVec 2) (s : State) : Allowed (.fclr m) s := by
  unfold Allowed
  cases s.irqActive <;> rfl

/-- FCLR with the clock on, in either context: what is left is the check of its mask. -/
theorem exec_fclr {s : State} (hf : s.fault = none) (hk : s.clkOn = true) (m : BitVec 2) :
    exec (.fclr m) s =
      require (!s.irqActive || m = maskRxOnly) .context s (finish (clearFlags m s)) :=
  prelude_passes _ hf (allowed_fclr m s) fun _ => hk

/-- A flag is cleared where the mask selects its channel and kept where it does not. -/
theorem clearFlags_eq (m : BitVec 2) (s : State) : clearFlags m s =
    { s with
      tx := { s.tx with tc := if m.getLsbD 0 then false else s.tx.tc }
      rx := { s.rx with tc := if m.getLsbD 1 then false else s.rx.tc } } := by
  unfold clearFlags maskTx maskRx
  cases m.getLsbD 0 <;> cases m.getLsbD 1 <;> simp

/-- Settles O20: the clock gate, then in HANDLER the mask, then the flags the mask selects. -/
theorem fclrClearsSelectedFlags : Obligations.FclrClearsSelectedFlags := by
  refine ⟨fun w hop himm => (decode_of_opField hop).trans (formatM_illegalImm .fclr himm),
    fun m hm => ⟨decode_encode (i := .fclr m) (by simpa [Instr.wellFormed] using hm), fun s hf =>
      ⟨fun hk => exec_unclocked hf (allowed_fclr m s) rfl hk, fun hk ha hmask => ?_,
        fun hk ha hmask => ?_, fun hk ha => ?_⟩⟩⟩
  all_goals rw [exec_fclr hf hk]
  · exact faultsWith_require _ _ (by simpa [ha] using show m ≠ maskRxOnly from hmask)
  · subst hmask
    rw [require_passes _ _ _ (by simp [maskRxOnly]), clearFlags_eq]
    exact congrArg Host.Outcome.next (advance_handler ha)
  · rw [require_passes _ _ _ (by simp [ha]), clearFlags_eq]
    exact finish_thread ha

/-! The descriptors (R162 to R165). -/

/-- What the two loads of one channel do, where `t` and `u` hold the loaded fields: the clock gate
first, then the check that the channel is stopped, then the load. -/
theorem gatedThread_load {en : Bool} {s t u : State} (ht : t.irqActive = s.irqActive)
    (hu : u.irqActive = s.irqActive) :
    (ThreadReady s → s.clkOn = false →
      faultsWith .unclocked s (gatedThread s (require (!en) .busy s (finish t))) ∧
      faultsWith .unclocked s (gatedThread s (require (!en) .busy s (finish u)))) ∧
    (GatedReady s → en = true →
      faultsWith .busy s (gatedThread s (require (!en) .busy s (finish t))) ∧
      faultsWith .busy s (gatedThread s (require (!en) .busy s (finish u)))) ∧
    (GatedReady s → en = false →
      gatedThread s (require (!en) .busy s (finish t)) = .next { t with pc := t.pc + 1 } ∧
      gatedThread s (require (!en) .busy s (finish u)) = .next { u with pc := u.pc + 1 }) := by
  refine ⟨fun h hk => ?_, fun h he => ?_, fun h he => ?_⟩
  · exact ⟨gatedThread_unclocked h hk _, gatedThread_unclocked h hk _⟩
  · have hbusy : (!en) = false := by simp [he]
    exact ⟨h.faults _ hbusy, h.faults _ hbusy⟩
  · have hstopped : (!en) = true := by simp [he]
    exact ⟨h.finishes hstopped ht, h.finishes hstopped hu⟩

/-- Settles O21: format L refuses a bit above the length, and the loads demand a
stopped channel TX. -/
theorem loadTxDescriptor : Obligations.LoadTxDescriptor :=
  ⟨fun _ hop himm => (decode_of_opField hop).trans (formatL_illegalImm .lenldTx himm),
    fun len addr => ⟨decode_encode (i := .lenldTx len) rfl, decode_encode (i := .maldTx addr) rfl,
      fun _ => gatedThread_load rfl rfl⟩⟩

/-- Settles O22: format L refuses a bit above the length, and the loads demand a
stopped channel RX. -/
theorem loadRxDescriptor : Obligations.LoadRxDescriptor :=
  ⟨fun _ hop himm => (decode_of_opField hop).trans (formatL_illegalImm .lenldRx himm),
    fun len addr => ⟨decode_encode (i := .lenldRx len) rfl, decode_encode (i := .maldRx addr) rfl,
      fun _ => gatedThread_load rfl rfl⟩⟩

/-! The Completion Flag (R166, R172). -/

/-- Settles O23: the context, then both channels stopped, then the flag and its event. -/
theorem doneclrResetsFlagBeforeArming : Obligations.DoneclrResetsFlagBeforeArming := by
  refine ⟨decode_encode (i := .doneclr) rfl, fun s =>
    ⟨fun hf ha => freeThread_context hf ha _, fun h hen => ?_, fun h htx hrx => ?_⟩⟩
  · have hnot : (!s.tx.en && !s.rx.en) = false := by obtain he | he := hen <;> simp [he]
    exact (h.passes _).trans (faultsWith_require .busy _ hnot)
  · refine (h.passes _).trans ((require_passes _ _ _ (by simp [htx, hrx])).trans ?_)
    exact finish_thread h.2

/-- Settles O27: behind the prelude WDONE only looks at `DONE`. -/
theorem wdoneWaitsForFlag : Obligations.WdoneWaitsForFlag := by
  refine ⟨fun w hop himm => (decode_of_opField hop).trans (formatH_illegalImm .wdone himm),
    fun b => ⟨decode_encode (i := .wdone b) rfl, fun s =>
      ⟨fun hf ha => freeThread_context hf ha _, fun h hd => ?_, fun h hd => ?_⟩⟩⟩
  · exact ((h.passes _).trans (if_pos hd)).trans (finish_thread h.2)
  · exact (h.passes _).trans (if_neg (by simp [hd]))

/-! The request lines and the interrupt source (R167, R168, R173). -/

/-- Settles O24: only DRQEN has a check of its own behind the clock gate, that of `UE`. -/
theorem requestLinesAndSourceEnable : Obligations.RequestLinesAndSourceEnable :=
  ⟨decode_encode (i := .drqen) rfl, decode_encode (i := .tcien) rfl,
    decode_encode (i := .drqdis) rfl, fun _ =>
    ⟨fun h hk => ⟨gatedThread_unclocked h hk _, gatedThread_unclocked h hk _,
        gatedThread_unclocked h hk _⟩,
      fun h => ⟨fun hu => h.faults _ hu, fun hu => h.finishes hu rfl,
        (h.passes _).trans (finish_thread h.2.1), (h.passes _).trans (finish_thread h.2.1)⟩⟩⟩

end Sys2Proof.Machine
end

section
/-! PROOFS of the family 43_completion: the exact next states of the three words of the handler
(R161, R201, R202), and that from a coherent state the handler runs them without a fault (R204, R206,
R294). -/

namespace Sys2Proof.Machine

/-! The handler's words, each in the context HANDLER (R201, R202, R203). -/

/-- DONESET in HANDLER advances the handler's own counter. -/
theorem HandlerReady.exec_doneset {s : State} (h : HandlerReady s) :
    exec .doneset s = .next
      { s with done := true, hist := s.hist ++ [.doneSet], hpc := s.hpc + 1 } :=
  (h.passes _).trans (congrArg Host.Outcome.next (advance_handler h.2))

/-- IRET in HANDLER advances neither counter. -/
theorem HandlerReady.exec_iret {s : State} (h : HandlerReady s) :
    exec .iret s = .next { s with irqActive := false, hist := s.hist ++ [.irqReturn] } :=
  h.passes _

/-- FCLR of RX alone in HANDLER, with the clock on, clears the flag of RX and keeps that of TX. -/
theorem HandlerReady.exec_fclr_rxOnly {s : State} (h : HandlerReady s) (hk : s.clkOn = true) :
    exec (.fclr maskRxOnly) s = .next
      { s with rx := { s.rx with tc := false }, hpc := s.hpc + 1 } := by
  obtain ⟨-, heffect⟩ := fclrClearsSelectedFlags.2 maskRxOnly (by decide)
  obtain ⟨-, -, hclear, -⟩ := heffect s h.1
  exact hclear hk h.2 rfl

/-- Settles O28: behind the prelude, which only looks at the context, neither has a check of its own. -/
theorem donesetAndIretInHandler : Obligations.DonesetAndIretInHandler :=
  ⟨decode_encode (i := .doneset) rfl, decode_encode (i := .iret) rfl, fun _ =>
    ⟨fun h => ⟨handlerOnly_context h _, handlerOnly_context h _⟩,
      fun h => ⟨h.exec_doneset, h.exec_iret⟩⟩⟩

/-! The run of the handler (R204, R206, R294). -/

/-- HOST, offered a step in the handler, runs the word at the handler's counter. -/
theorem HandlerReady.step_eq_exec {s : State} {w : Word} {i : Instr} (h : HandlerReady s)
    (ht : s.turn = .host) (hw : handlerProgram[s.hpc]? = some w) (hd : decode w = .instr i) :
    step s = exec i (useChoice s) :=
  step_fetched_instr h.1 ht (fetch_handler h.2 hw) hd

/-- Settles O57: a coherent handler stands at one of the three words, with the clock that FCLR needs on;
the request is pending until FCLR and the flag is set after DONESET. -/
theorem handlerRunsToReturn : Obligations.HandlerRunsToReturn := by
  intro s hs hf ha ht
  have hr : HandlerReady s := ⟨hf, ha⟩
  have hr' : HandlerReady (useChoice s) := hr
  obtain ⟨-, htcie, htc, hdone⟩ := hs.handler ha
  have hk : s.clkOn = true := hs.sourceClocked htcie
  obtain hp | hp | hp : s.hpc = 0 ∨ s.hpc = 1 ∨ s.hpc = 2 := by
    have := hs.handlerCounter
    omega
  · have hstep := hr.step_eq_exec ht (by rw [hp]; rfl) (decode_encode (i := .doneset) rfl)
    refine ⟨_, hstep.trans hr'.exec_doneset, hf, rfl, fun _ => ⟨by simp [hp], ha, ?_⟩, ?_, ?_⟩
    · simp [State.irqLine, htc (by omega), htcie]
    all_goals omega
  · have hstep := hr.step_eq_exec ht (by rw [hp]; rfl) (decode_encode (i := .fclr maskRxOnly) rfl)
    refine ⟨_, hstep.trans (hr'.exec_fclr_rxOnly hk), hf, hdone (by omega), ?_,
      fun _ => ⟨by simp [hp], ha, rfl, rfl⟩, ?_⟩
    all_goals omega
  · have hstep := hr.step_eq_exec ht (by rw [hp]; rfl) (decode_encode (i := .iret) rfl)
    refine ⟨_, hstep.trans hr'.exec_iret, hf, hdone (by omega), ?_, ?_, fun _ => rfl⟩
    all_goals omega

end Sys2Proof.Machine
end

section
/-! PROOFS of the family 44_polling: the exact next state and the faults, in order, of the four polling
instructions (R221 to R224), and that the polling form refuses the buffers on which the DMA form faults
(R226). -/

namespace Sys2Proof.Machine

/-! The refused buffers (R170, R171, R226). -/

/-- An answer that passed through a check completes without a fault exactly when the check holds and
the rest completes so. -/
theorem require_completes_iff {ok : Bool} {f : Fault} {s t : State} {r : Result} :
    (require ok f s r = .next t ∧ t.fault = none) ↔ ok = true ∧ r = .next t ∧ t.fault = none := by
  cases ok with
  | true => simp [require]
  | false =>
    refine ⟨fun ⟨ht, hf⟩ => ?_, nofun⟩
    obtain rfl := Host.Outcome.next.inj ht
    cases hf

/-- An instruction of THREAD that ends completes with its counter advanced. -/
theorem finish_completes_iff {s t : State} (hf : s.fault = none) (ha : s.irqActive = false) :
    (finish s = .next t ∧ t.fault = none) ↔ t = { s with pc := s.pc + 1 } := by
  rw [finish_thread ha, Host.Outcome.next.injEq]
  refine ⟨fun ⟨ht, _⟩ => ht.symm, ?_⟩
  rintro rfl
  exact ⟨rfl, hf⟩

/-- CHEN.RX, with a stopped channel loaded and wired, completes exactly when its buffer is well
placed. -/
theorem exec_chenRx_completes_iff {s t : State} (h : GatedReady s) (hw : s.wired = true)
    (he : s.rx.en = false) {a : Addr} {n : Len} (ha : s.rx.maddr = some a) (hn : s.rx.cnt = some n) :
    (exec .chenRx s = .next t ∧ t.fault = none) ↔ wellPlaced a n = true ∧
      t = { s with rx := { s.rx with en := true }, pc := s.pc + 1 } := by
  rw [exec_chenRx h hw ha hn, require_completes_iff, require_completes_iff, finish_completes_iff]
  · simp [he]
  · exact h.1
  · exact h.2.1

/-- CHEN.TX, with both channels loaded for one length and wired and its own stopped, completes
exactly when its buffer is well placed and clear of the other. -/
theorem exec_chenTx_completes_iff {s t : State} (h : GatedReady s) (hw : s.wired = true)
    (he : s.tx.en = false) {ta ra : Addr} {n : Len} (hta : s.tx.maddr = some ta)
    (htn : s.tx.cnt = some n) (hra : s.rx.maddr = some ra) (hrn : s.rx.cnt = some n) :
    (exec .chenTx s = .next t ∧ t.fault = none) ↔ wellPlaced ta n = true ∧
      buffersOverlap ta n ra n = false ∧
      t = { s with tx := { s.tx with en := true }, pc := s.pc + 1 } := by
  rw [exec_chenTx h hw hta htn hra hrn, require_completes_iff, require_completes_iff,
    require_completes_iff, require_completes_iff, finish_completes_iff]
  · simp [he]
  · exact h.1
  · exact h.2.1

theorem pollRefuses_eq_false_iff {tx rx : Addr} {len : Len} : pollRefuses tx rx len = false ↔
    wellPlaced rx len = true ∧ wellPlaced tx len = true ∧ buffersOverlap tx len rx len = false := by
  simp [pollRefuses, and_assoc, and_left_comm]

/-- Settles O7: CHEN.RX checks the incoming buffer and leaves what CHEN.TX reads, which checks the
outgoing one and the overlap. -/
theorem pollRefusesWhereDmaFaults : Obligations.PollRefusesWhereDmaFaults := by
  intro tx rx len s h hw htxEn hrxEn htxAddr htxCnt hrxAddr hrxCnt
  have hRx (t : State) := exec_chenRx_completes_iff (t := t) h hw hrxEn hrxAddr hrxCnt
  have hTx (u : State) := exec_chenTx_completes_iff (t := u)
    (s := { s with rx := { s.rx with en := true }, pc := s.pc + 1 })
    h hw htxEn htxAddr htxCnt hrxAddr hrxCnt
  rw [pollRefuses_eq_false_iff]
  constructor
  · rintro ⟨hprx, hptx, hover⟩
    obtain ⟨hexecRx, hfRx⟩ := (hRx _).mpr ⟨hprx, rfl⟩
    obtain ⟨hexecTx, hfTx⟩ := (hTx _).mpr ⟨hptx, hover, rfl⟩
    exact ⟨_, _, hexecRx, hfRx, hexecTx, hfTx⟩
  · rintro ⟨t, u, hexecRx, hfRx, hexecTx, hfTx⟩
    obtain ⟨hprx, rfl⟩ := (hRx t).mp ⟨hexecRx, hfRx⟩
    obtain ⟨hptx, hover, -⟩ := (hTx u).mp ⟨hexecTx, hfTx⟩
    exact ⟨hprx, hptx, hover⟩

/-! The byte moves (R221, R224). -/

/-- A gated instruction whose first check passes is left with the rest. -/
theorem GatedReady.passes_first {s : State} (h : GatedReady s) {ok : Bool} {f : Fault} (r : Result)
    (hok : ok = true) : gatedThread s (require ok f s r) = r :=
  (h.passes _).trans (require_passes f s r hok)

/-- Settles O29: the clock gate, `UE`, `TXE`, the admission of the address, then the move. -/
theorem putWritesTransmitRegister : Obligations.PutWritesTransmitRegister := by
  refine fun addr => ⟨decode_encode (i := .put addr) rfl, fun s =>
    ⟨fun h hk => gatedThread_unclocked h hk _, fun h hu => h.faults _ hu, fun h hu hx => ?_,
      fun h hu hx hm => ?_, fun h hu hx hm => ?_⟩⟩
  all_goals refine (h.passes_first _ hu).trans ?_
  · exact faultsWith_require _ _ hx
  all_goals refine (require_passes _ _ _ hx).trans ?_
  · exact faultsWith_require _ _ hm
  · exact (require_passes _ _ _ hm).trans (finish_thread h.2.1)

/-- GET with a byte received and its address admitted. -/
theorem exec_get {s : State} (h : GatedReady s) (hx : s.rxne = true) {addr : Addr}
    (hm : s.mayWrite addr = true) {b : Byte} (hb : s.rdr = some b) :
    exec (.get addr) s = finish (afterDataRead (storeByte .host addr b s)) := by
  refine (h.passes_first _ hx).trans ((require_passes _ _ _ hm).trans ?_)
  rw [hb]

/-- Settles O31: the clock gate, `RXNE`, the admission of the address, then the store, which changes
the byte at its own address alone. -/
theorem getStoresReceivedByte : Obligations.GetStoresReceivedByte := by
  refine fun addr => ⟨decode_encode (i := .get addr) rfl, fun s =>
    ⟨fun h hk => gatedThread_unclocked h hk _, fun h hx => h.faults _ hx, fun h hx hm => ?_,
      fun h hx hm b hb => ?_⟩⟩
  · exact (h.passes_first _ hx).trans (faultsWith_require _ _ hm)
  · exact ⟨_, (exec_get h hx hm hb).trans (finish_thread h.2.1), rfl,
      storeByte_byteAt_same .host addr b s, fun _ ha => storeByte_byteAt_other .host b s ha⟩

/-! The waits (R222, R223). -/

/-- A wait passes on its flag and holds without it. -/
theorem gatedThread_wait {s : State} (h : GatedReady s) (flag : Bool) :
    (flag = true → gatedThread s (if flag then finish s else hold s) =
      .next { s with pc := s.pc + 1 }) ∧
    (flag = false → gatedThread s (if flag then finish s else hold s) = .next s) := by
  rw [h.passes]
  exact ⟨fun hflag => (if_pos hflag).trans (finish_thread h.2.1),
    fun hflag => if_neg (by simp [hflag])⟩

/-- Settles O30: behind the clock gate each wait only looks at its own flag. -/
theorem pollingWaits : Obligations.PollingWaits := by
  refine ⟨decode_encode (i := .wtxe) rfl, decode_encode (i := .wrxne) rfl, fun s =>
    ⟨fun h hk => ⟨gatedThread_unclocked h hk _, gatedThread_unclocked h hk _⟩, fun h => ?_⟩⟩
  obtain ⟨htxPass, htxHold⟩ := gatedThread_wait h s.txe
  obtain ⟨hrxPass, hrxHold⟩ := gatedThread_wait h s.rxne
  exact ⟨htxPass, htxHold, hrxPass, hrxHold⟩

end Sys2Proof.Machine
end

section
/-! PROOFS of the family 45_engines: the exact next states of SHIFT, of the beats and of BRG.tick (R241 to
R252), the arbiter (R254), the divisor of the frame on the wire (R242), and the balance of a transaction,
in which no frame overruns (R255, R257). -/

namespace Sys2Proof.Machine

/-! The offer of a step to an agent other than HOST (R12, R240). -/

/-- The action each agent takes when its guard, `actorReady`, holds. -/
def agentAction : Actor → State → Result
  | .host => hostStep
  | .shiftStart => shiftStart
  | .shiftComplete => shiftComplete
  | .dmaTx => dmaTxBeat
  | .dmaRx => dmaRxBeat
  | .irqEntry => irqEntry
  | .brgTick => brgTick

theorem actorStep_eq_guarded {a : Actor} (ha : a ≠ .host) (s : State) :
    actorStep a s = guarded (actorReady a s) (agentAction a s) s := by
  cases a with
  | host => exact absurd rfl ha
  | shiftStart | shiftComplete | dmaTx | dmaRx | irqEntry | brgTick => rfl

/-- No guard looks at the choices. -/
theorem actorReady_useChoice (a : Actor) (s : State) :
    actorReady a (useChoice s) = actorReady a s := by
  cases a <;> rfl

/-- An agent other than HOST whose guard holds takes its action. -/
theorem step_ready {s : State} (hf : s.fault = none) {a : Actor} (ht : s.turn = a)
    (ha : a ≠ .host) (hr : actorReady a s = true) : step s = agentAction a (useChoice s) := by
  rw [step_eq hf, ht, actorStep_eq_guarded ha, actorReady_useChoice, hr, guarded_true]

/-- An agent other than HOST whose guard fails leaves the block as it is. -/
theorem step_unready {s : State} (hf : s.fault = none) {a : Actor} (ht : s.turn = a)
    (ha : a ≠ .host) (hr : ¬ actorReady a s = true) : step s = .next (useChoice s) := by
  rw [step_eq hf, ht, actorStep_eq_guarded ha, actorReady_useChoice, Bool.eq_false_iff.mpr hr,
    guarded_false]

/-! SHIFT.start (R244). -/

theorem shiftStart_loaded {s : State} {b : Byte} {d : Divisor} (hb : s.tdr = some b)
    (hd : s.brgDiv = some d) :
    shiftStart s = .next (flagsAfterStart { s with tsr := some b, fdiv := some d }) := by
  simp only [shiftStart, hb, hd]

/-- Settles O36: the guard is the four conditions, and the action finds both values loaded. -/
theorem shiftStartBeginsFrame : Obligations.ShiftStartBeginsFrame := by
  intro s hf ht
  refine ⟨fun b d hu hx hb htdr hdiv => ?_, fun h => step_unready hf ht nofun fun hr => ?_⟩
  · exact (step_ready hf ht nofun (shiftStartReady_iff.mpr ⟨hf, hu, hx, hb⟩)).trans
      (shiftStart_loaded htdr hdiv)
  · obtain ⟨-, hu, hx, hb⟩ := shiftStartReady_iff.mp hr
    simp [hu, hx, hb] at h

/-! SHIFT.complete (R246, R255). -/

/-- A frame with its byte and its divisor ends when the bus answers it. -/
theorem frameAnswered_iff {s : State} {b : Byte} {d : Divisor} (hb : s.tsr = some b)
    (hd : s.fdiv = some d) :
    frameAnswered s = true ↔ ∃ r, busAnswer s.launch.bus s.frames b d = some r := by
  simp [frameAnswered, frameAnswer, hb, hd, Option.isSome_iff_exists]

/-- SHIFT.complete with the bus's answer: the check of `RXNE`, then the byte into RDR. -/
theorem shiftComplete_answered {s : State} {b r : Byte} {d : Divisor} (hb : s.tsr = some b)
    (hd : s.fdiv = some d) (hr : busAnswer s.launch.bus s.frames b d = some r) :
    shiftComplete s = require (!s.rxne) .overrun s (.next (record (.frame s.frames b r d)
      (flagsAfterComplete { s with rdr := some r, frames := s.frames + 1 }))) := by
  simp only [shiftComplete, frameAnswer, hb, hd, hr]

/-- Settles O37: with the guard true the answer is received, or overruns a byte not yet read; a stalled
bus and each other condition make the guard false. -/
theorem shiftCompleteEndsFrame : Obligations.ShiftCompleteEndsFrame := by
  intro s hf ht
  refine ⟨fun b d hb hd => ⟨fun r hbusy htxl hrxl hr hq => ?_, fun hr => ?_⟩, fun h => ?_⟩
  · have hready : shiftCompleteReady s = true := shiftCompleteReady_iff.mpr
      ⟨hf, hbusy, htxl, hrxl, (frameAnswered_iff hb hd).mpr ⟨r, hr⟩, hq⟩
    rw [(step_ready hf ht nofun hready).trans (shiftComplete_answered (s := useChoice s) hb hd hr)]
    exact ⟨fun hx => faultsWith_require _ _ (by simp [hx]),
      fun hx => require_passes _ _ _ (by simp [hx])⟩
  · refine step_unready hf ht nofun fun hready => ?_
    obtain ⟨-, -, -, -, ha, -⟩ := shiftCompleteReady_iff.mp hready
    simp [frameAnswered_iff hb hd, hr] at ha
  · refine step_unready hf ht nofun fun hready => ?_
    obtain ⟨-, hbusy, htxl, hrxl, -, hq⟩ := shiftCompleteReady_iff.mp hready
    simp [hbusy, htxl, hrxl, hq] at h

/-! The beats (R249 to R252). -/

/-- A wired channel that runs, after a beat: its memory address one on, its count one down, and at
0 stopped with its flag set (R250, R252). -/
theorem Channel.isWired.afterBeat_eq {c : Channel} {dir : Bool} {a : Addr} {n : Len}
    (hw : c.isWired dir) (he : c.en = true) (ha : c.maddr = some a) (hn : c.cnt = some n) :
    ∃ d, c.loaded = some d ∧ d.maddr = a ∧ d.dir = dir ∧ c.afterBeat d = { c with
      maddr := some (a + 1)
      cnt := some (n - 1)
      tc := if n = 1 then true else c.tc
      en := if n = 1 then false else true } := by
  obtain ⟨hp, hd, hmi, hpi⟩ := hw
  refine ⟨⟨Config.drAddr, a, n, dir, true, false⟩,
    Channel.loaded_eq_some.mpr ⟨hp, ha, hn, hd, hmi, hpi⟩, rfl, rfl, ?_⟩
  have hlast : n - 1#16 = 0#16 ↔ n = 1#16 := sub_eq_zero
  by_cases h1 : n = 1#16
  · simp [Channel.afterBeat, nextAddr, hp, h1]
  · simp [Channel.afterBeat, nextAddr, hp, he, hlast, h1]

/-- A DMA.TX beat with its descriptor: the check of its address, then the byte into TDR. -/
theorem dmaTxBeat_loaded {s : State} {d : Descriptor} (hl : s.tx.loaded = some d)
    (hd : d.dir = true) : dmaTxBeat s = require (s.mayRead d.maddr) .mem s (.next (setTx
      (s.tx.afterBeat d) (writeDataRegister (s.byteAt d.maddr) (noteRead .dmaTx d.maddr s)))) := by
  simp only [dmaTxBeat, hl, hd, if_true]

/-- A DMA.RX beat with its descriptor and a byte: the check of its address, then the byte into MEM. -/
theorem dmaRxBeat_loaded {s : State} {d : Descriptor} (hl : s.rx.loaded = some d)
    (hd : d.dir = false) {b : Byte} (hb : s.rdr = some b) :
    dmaRxBeat s = require (s.mayWrite d.maddr) .mem s (.next (setRx (s.rx.afterBeat d)
      (storeByte .dmaRx d.maddr b (afterDataRead s)))) := by
  simp only [dmaRxBeat, hl, hb, hd, Bool.false_eq_true, if_false]

/-- Settles O38: the guard is the request and the grant; the beat checks its address, then moves the
byte. -/
theorem dmaTxBeatMovesByte : Obligations.DmaTxBeatMovesByte := by
  intro s hf ht
  refine ⟨fun a n hdmat hx he hn hn0 ha hw hgrant => ?_, fun h => ?_⟩
  · obtain ⟨d, hl, rfl, hdir, hbeat⟩ := hw.afterBeat_eq he ha hn
    have hq : s.reqTx = true := reqTx_iff.mpr ⟨hdmat, hx, he, n, hn, hn0⟩
    have hstep : step s = require (s.mayRead d.maddr) .mem (useChoice s) (.next (setTx
        (s.tx.afterBeat d) (writeDataRegister (s.byteAt d.maddr)
          (noteRead .dmaTx d.maddr (useChoice s))))) :=
      (step_ready hf ht nofun (dmaTxReady_iff.mpr ⟨hf, hq, hgrant⟩)).trans
        (dmaTxBeat_loaded (s := useChoice s) hl hdir)
    rw [hstep, ← hbeat]
    exact ⟨faultsWith_require _ _, require_passes _ _ _⟩
  · refine step_unready hf ht nofun fun hr => ?_
    obtain ⟨hdmat, hx, he, n, hn, hn0⟩ := reqTx_iff.mp (dmaTxReady_iff.mp hr).2.1
    exact hn0 (by simpa [hdmat, hx, he, hn] using h)

/-- Settles O39: the guard is the request and the grant; the beat checks its address, then lands the
byte there alone. -/
theorem dmaRxBeatLandsByte : Obligations.DmaRxBeatLandsByte := by
  intro s hf ht
  refine ⟨fun a n b hdmar hx he hn hn0 ha hw hb hgrant => ?_, fun h => ?_⟩
  · obtain ⟨d, hl, rfl, hdir, hbeat⟩ := hw.afterBeat_eq he ha hn
    have hq : s.reqRx = true := reqRx_iff.mpr ⟨hdmar, hx, he, n, hn, hn0⟩
    have hstep : step s = require (s.mayWrite d.maddr) .mem (useChoice s) (.next (setRx
        (s.rx.afterBeat d) (storeByte .dmaRx d.maddr b (afterDataRead (useChoice s))))) :=
      (step_ready hf ht nofun (dmaRxReady_iff.mpr ⟨hf, hq, hgrant⟩)).trans
        (dmaRxBeat_loaded (s := useChoice s) hl hdir hb)
    rw [hstep, ← hbeat]
    exact ⟨faultsWith_require _ _, fun hm => ⟨_, require_passes _ _ _ hm, rfl,
      storeByte_byteAt_same .dmaRx d.maddr b (afterDataRead (useChoice s)),
      fun x hne => storeByte_byteAt_other .dmaRx b (afterDataRead (useChoice s)) hne⟩⟩
  · refine step_unready hf ht nofun fun hr => ?_
    obtain ⟨hdmar, hx, he, n, hn, hn0⟩ := reqRx_iff.mp (dmaRxReady_iff.mp hr).2.1
    exact hn0 (by simpa [hdmar, hx, he, hn] using h)

/-- Settles O40: with both requests a guard fails exactly under the policy that prefers the other
channel. -/
theorem arbiterGrantsOne : Obligations.ArbiterGrantsOne := by
  intro s hf htx hrx
  refine ⟨fun hp ht => ?_, fun hp ht => ?_, fun hp ht => ?_, fun hp ht => ?_⟩
  · exact step_unready hf ht nofun fun hr => (dmaTxReady_iff.mp hr).2.2 ⟨hp, hrx⟩
  · exact step_unready hf ht nofun fun hr => (dmaRxReady_iff.mp hr).2.2 ⟨hp, htx⟩
  · exact step_ready hf ht nofun (dmaTxReady_iff.mpr ⟨hf, htx, fun h => hp h.1⟩)
  · exact step_ready hf ht nofun (dmaRxReady_iff.mpr ⟨hf, hrx, fun h => hp h.1⟩)

/-! BRG.tick (R241). -/

section

variable {s : State}

/-- A counter above 1 counts down. -/
theorem actorStep_brgTick_counts (hf : s.fault = none) (hu : s.ue = true) {c : Divisor}
    (hc : s.brgCnt = some c) (h1 : 1 < c.toNat) :
    actorStep .brgTick s = .next { s with brgCnt := some (c - 1), baudTick := false } := by
  simp [actorStep, brgTickReady_iff.mpr ⟨hf, hu⟩, brgTick, hc, Nat.not_le.mpr h1]

/-- A counter at 1 or below is reloaded with the divisor, and `baud_tick` pulses. -/
theorem actorStep_brgTick_reloads (hf : s.fault = none) (hu : s.ue = true) {c d : Divisor}
    (hc : s.brgCnt = some c) (h1 : c.toNat ≤ 1) (hd : s.brgDiv = some d) :
    actorStep .brgTick s = .next { s with brgCnt := some d, baudTick := true } := by
  simp [actorStep, brgTickReady_iff.mpr ⟨hf, hu⟩, brgTick, hc, h1, hd]

/-- After fewer than `d` steps from a counter of `d`, the counter is down by their number and
`baud_tick`, which the first of them clears, has not pulsed. -/
theorem brgTicks_counts (hf : s.fault = none) (hu : s.ue = true) {d : Divisor}
    (hc : s.brgCnt = some d) {k : Nat} (hk : k < d.toNat) :
    ∃ b, (1 ≤ k → b = false) ∧ brgTicks k s =
      .next { s with brgCnt := some (d - BitVec.ofNat 16 k), baudTick := b } := by
  induction k with
  | zero => exact ⟨s.baudTick, nofun, by simp [brgTicks, ← hc]⟩
  | succ k ih =>
    obtain ⟨b, -, hb⟩ := ih (by omega)
    refine ⟨false, fun _ => rfl, ?_⟩
    have hpred : d - BitVec.ofNat 16 k - 1 = d - BitVec.ofNat 16 (k + 1) := by bv_omega
    have hgt : 1 < (d - BitVec.ofNat 16 k).toNat := by bv_omega
    simp only [brgTicks, hb]
    exact hpred ▸ actorStep_brgTick_counts
      (s := { s with brgCnt := some (d - BitVec.ofNat 16 k), baudTick := b }) hf hu rfl hgt

end

/-- Settles O42: the counter is at 1 after `d - 1` steps, so that the `d`-th reloads it. -/
theorem baudTickPeriod : Obligations.BaudTickPeriod := by
  refine ⟨fun s d hf hu hd hd0 hc => ⟨fun k h1 hk => ?_, ?_⟩, fun s hf ht hu => ?_⟩
  · obtain ⟨b, hb, hk⟩ := brgTicks_counts hf hu hc hk
    exact hb h1 ▸ hk
  · obtain ⟨m, hm⟩ : ∃ m, d.toNat = m + 1 := Nat.exists_eq_add_one.mpr (by bv_omega)
    obtain ⟨b, -, hb⟩ := brgTicks_counts hf hu hc (k := m) (by omega)
    have hlast : (d - BitVec.ofNat 16 m).toNat ≤ 1 := by bv_omega
    simp only [hm, brgTicks, hb]
    exact actorStep_brgTick_reloads
      (s := { s with brgCnt := some (d - BitVec.ofNat 16 m), baudTick := b }) hf hu rfl hlast hd
  · refine step_unready hf ht nofun fun hr => ?_
    exact absurd (hu.symm.trans (brgTickReady_iff.mp hr).2) nofun

/-- Settles O58: a frame keeps the engine enabled, which keeps the divisor, and coherence ties the
frame's divisor to it before the step and after. -/
theorem frameKeepsItsDivisor : Obligations.FrameKeepsItsDivisor := by
  intro s t hs hb h
  have hdiv : t.brgDiv = s.brgDiv := by
    by_contra hne
    have hu := (divisorChangesOnlyWhenDisabled s t h (.inl hne)).1
    exact absurd (hu.symm.trans (hs.active (.inl hb))) nofun
  refine ⟨hdiv, fun hb' => ?_⟩
  calc t.fdiv = t.brgDiv := ((stepKeepsCoherent s t hs h).frame hb').2
    _ = s.brgDiv := hdiv
    _ = s.fdiv := (hs.frame hb).2.symm

/-! Who can overrun (R258, R281). -/

/-- An answer whose next state, if it has one, does not record FAULT_OVERRUN. -/
def NoOverrun (r : Result) : Prop := ∀ t, r = .next t → t.fault ≠ some .overrun

theorem NoOverrun.next {t : State} (h : t.fault = none) : NoOverrun (.next t) := by
  rintro _ ⟨⟩
  simp [h]

theorem NoOverrun.fault (f : Fault) : NoOverrun (.fault f) := fun _ h => nomatch h

theorem NoOverrun.refused (q : Refusal) : NoOverrun (.refused q) := fun _ h => nomatch h

theorem NoOverrun.raise {s : State} {f : Fault} (hf : f ≠ .overrun) : NoOverrun (raise f s) := by
  rintro _ ⟨⟩ h
  exact hf (Option.some.inj h)

theorem NoOverrun.ite {c : Prop} [Decidable c] {r r' : Result} (h : NoOverrun r)
    (h' : NoOverrun r') : NoOverrun (if c then r else r') := by
  split
  · exact h
  · exact h'

/-- A check of another fault. -/
theorem NoOverrun.require {ok : Bool} {f : Fault} {s : State} {r : Result} (hf : f ≠ .overrun)
    (h : NoOverrun r) : NoOverrun (require ok f s r) :=
  .ite h (.raise hf)

/-- The prelude checks the context and the clock. -/
theorem NoOverrun.prelude {thread handler gated : Bool} {s : State} {r : Result}
    (h : NoOverrun r) : NoOverrun (prelude thread handler gated s r) := by
  unfold Machine.prelude
  split
  · exact .fault _
  · exact .require nofun (.require nofun h)

theorem NoOverrun.guarded {ready : Bool} {s : State} {r : Result} (hf : s.fault = none)
    (h : NoOverrun r) : NoOverrun (guarded ready r s) :=
  .ite h (.next hf)

/-- A word that does not decode is an illegal opcode or an illegal immediate (R107 (3)). -/
theorem fetchedWord_ne_overrun (w : Word) : fetchedWord w ≠ .illegal .overrun := by
  unfold fetchedWord
  split <;> simp

theorem fetch_ne_overrun (s : State) : fetch s ≠ .illegal .overrun := by
  unfold fetch
  split
  · split
    · exact fetchedWord_ne_overrun _
    · simp
  · split
    · exact fetchedWord_ne_overrun _
    · split <;> simp

/-- Without a request of RX its byte waits unclaimed (R251). -/
theorem reqRx_eq_false {s : State} (hx : s.rxne = true) (hq : s.reqRx = false) :
    s.dmar = false ∨ s.rx.en = false ∨ s.rx.hasBytes = false := by
  simpa only [State.reqRx, hx, Bool.and_true, Bool.and_eq_false_iff, or_assoc] using hq

section

variable {s : State} (hf : s.fault = none)
include hf

/-- No check of an instruction is of FAULT_OVERRUN. -/
theorem exec_noOverrun (i : Instr) : NoOverrun (exec i s) := by
  cases i with
  | bue | clken | irqen | clkrd | tcien | drqdis | doneset | iret => exact .prelude (.next hf)
  | pincfg | dmawire | uedis | fclr | lenldTx | maldTx | lenldRx | maldRx | doneclr | drqen =>
    exact .prelude (.require nofun (.next hf))
  | wdone | wtxe | wrxne => exact .prelude (.ite (.next hf) (.next hf))
  | put => exact .prelude (.require nofun (.require nofun (.require nofun (.next hf))))
  | brgld =>
    refine .prelude (.require nofun ?_)
    split
    · exact .raise nofun
    · exact .require nofun (.require nofun (.next hf))
  | ueen =>
    refine .prelude ?_
    split
    · exact .raise nofun
    · exact .next (by split <;> exact hf)
  | chenRx =>
    refine .prelude (.require nofun ?_)
    split
    · exact .require nofun (.require nofun (.next hf))
    · exact .raise nofun
  | chenTx =>
    refine .prelude (.require nofun ?_)
    split
    · exact .require nofun (.require nofun (.require nofun (.require nofun (.next hf))))
    · exact .raise nofun
  | get =>
    refine .prelude (.require nofun (.require nofun ?_))
    split
    · exact .raise nofun
    · exact .next hf

/-- HOST takes the instruction's faults, or that of a word that does not decode. -/
theorem hostStep_noOverrun : NoOverrun (hostStep s) := by
  intro t h ht
  obtain ⟨i, -, hi⟩ | ⟨f, hi, rfl⟩ | ⟨-, rfl⟩ := hostStep_next h
  · exact exec_noOverrun hf i t hi ht
  · obtain rfl : f = .overrun := Option.some.inj ht
    exact fetch_ne_overrun s hi
  · exact absurd (hf.symm.trans ht) nofun

/-- No agent but SHIFT.complete has a check of FAULT_OVERRUN. -/
theorem actorStep_noOverrun {a : Actor} (ha : a ≠ .shiftComplete) : NoOverrun (actorStep a s) := by
  cases a with
  | host => exact hostStep_noOverrun hf
  | shiftComplete => exact absurd rfl ha
  | shiftStart =>
    refine .guarded hf ?_
    unfold shiftStart
    split
    · exact .next hf
    · exact .raise nofun
  | dmaTx =>
    refine .guarded hf ?_
    unfold dmaTxBeat
    split
    · exact .raise nofun
    · exact .ite (.require nofun (.next hf)) (.refused _)
  | dmaRx =>
    refine .guarded hf ?_
    unfold dmaRxBeat
    split
    · exact .ite (.refused _) (.require nofun (.next hf))
    · exact .raise nofun
  | irqEntry => exact .guarded hf (.next hf)
  | brgTick =>
    refine .guarded hf ?_
    unfold brgTick
    split
    · exact .raise nofun
    · refine .ite ?_ (.next hf)
      split
      · exact .raise nofun
      · exact .next hf

end

/-- Settles O52: the fault is SHIFT.complete's own, whose guard has `BUSY = 1` and no request of RX. -/
theorem overrunOnlyWhenUnarmed : Obligations.OverrunOnlyWhenUnarmed := by
  intro s t h ht
  obtain ⟨hf, ha⟩ := step_next h
  have hturn : s.turn = .shiftComplete := by
    by_contra hne
    exact actorStep_noOverrun (s := useChoice s) hf hne t ha ht
  rw [hturn] at ha
  obtain ⟨hr, ha⟩ | ⟨-, rfl⟩ := guarded_next ha
  · obtain ⟨-, hbusy, -, -, -, hq⟩ := shiftCompleteReady_iff.mp hr
    obtain ⟨b, d, r, -, -, -, ⟨hx, -⟩ | ⟨-, rfl⟩⟩ | ⟨-, rfl⟩ := shiftComplete_next hr ha
    · exact ⟨hturn, hbusy, hx, reqRx_eq_false hx hq⟩
    · exact absurd (hf.symm.trans ht) nofun
    · cases ht
  · exact absurd (hf.symm.trans ht) nofun

/-! The balance of a transaction (R257). -/

section

variable {s : State} (h : InFlight s)
include h

/-- While a received byte waits, channel RX requests. -/
theorem InFlight.reqRx (hx : s.rxne = true) : s.reqRx = true := by
  obtain ⟨t, r, -, hr, hbal, hline, hstart⟩ := h
  have hne : r ≠ 0 := by
    rintro rfl
    simp [bytesInside, hx] at hbal
  exact reqRx_iff.mpr ⟨hline, hx, hstart hne, r, hr, hne⟩

/-- A DMA.TX beat takes a byte from TX.CNT into TDR (R250). -/
theorem InFlight.afterTxBeat (hq : s.reqTx = true) {d : Descriptor} (hl : s.tx.loaded = some d)
    (b : Byte) :
    InFlight (setTx (s.tx.afterBeat d) (writeDataRegister b (noteRead .dmaTx d.maddr s))) := by
  obtain ⟨t, r, ht, hr, hbal, hline, hstart⟩ := h
  obtain ⟨-, hx, -, hn⟩ := reqTx_iff.mp hq
  have hne := Channel.loaded_cnt_ne_zero hl hn
  obtain ⟨-, -, hcnt, -⟩ := Channel.loaded_eq_some.mp hl
  obtain rfl : d.cnt = t := Option.some.inj (hcnt.symm.trans ht)
  have hbal' : r.toNat = d.cnt.toNat + (oneIf s.busy + oneIf s.rxne) := by
    simpa [bytesInside, hx] using hbal
  have hpred : (d.cnt - 1).toNat + 1 = d.cnt.toNat := by bv_omega
  refine ⟨d.cnt - 1, r, rfl, hr, ?_, hline, hstart⟩
  change r.toNat = (d.cnt - 1).toNat + (1 + oneIf s.busy + oneIf s.rxne)
  omega

/-- A DMA.RX beat takes the byte of RDR off RX.CNT, and stops the channel at 0 (R252). -/
theorem InFlight.afterRxBeat (hq : s.reqRx = true) {d : Descriptor} (hl : s.rx.loaded = some d)
    (b : Byte) :
    InFlight (setRx (s.rx.afterBeat d) (storeByte .dmaRx d.maddr b (afterDataRead s))) := by
  obtain ⟨t, r, ht, hr, hbal, hline, -⟩ := h
  obtain ⟨-, hx, he, hn⟩ := reqRx_iff.mp hq
  have hne := Channel.loaded_cnt_ne_zero hl hn
  obtain ⟨-, -, hcnt, -⟩ := Channel.loaded_eq_some.mp hl
  obtain rfl : d.cnt = r := Option.some.inj (hcnt.symm.trans hr)
  have hbal' : d.cnt.toNat = t.toNat + (oneIf (!s.txe) + oneIf s.busy + 1) := by
    simpa [bytesInside, hx] using hbal
  have hpred : (d.cnt - 1).toNat + 1 = d.cnt.toNat := by bv_omega
  refine ⟨t, d.cnt - 1, ht, rfl, ?_, hline, fun hne' => by simpa [he] using hne'⟩
  change (d.cnt - 1).toNat = t.toNat + (oneIf (!s.txe) + oneIf s.busy + 0)
  omega

/-- SHIFT.start moves a byte from TDR onto the wire (R244). -/
theorem InFlight.afterShiftStart (hx : s.txe = false) (hb : s.busy = false) (b : Byte)
    (d : Divisor) : InFlight (flagsAfterStart { s with tsr := some b, fdiv := some d }) := by
  obtain ⟨t, r, ht, hr, hbal, hline, hstart⟩ := h
  exact ⟨t, r, ht, hr, by simpa [bytesInside, hx, hb] using hbal, hline, hstart⟩

/-- SHIFT.complete moves a byte from the wire to an empty RDR (R246). -/
theorem InFlight.afterShiftComplete (hb : s.busy = true) (hx : s.rxne = false) (r : Byte) :
    InFlight (flagsAfterComplete { s with rdr := some r, frames := s.frames + 1 }) := by
  obtain ⟨t, n, ht, hn, hbal, hline, hstart⟩ := h
  exact ⟨t, n, ht, hn, by simpa [bytesInside, hx, hb] using hbal, hline, hstart⟩

/-- Every step of an agent other than HOST. -/
theorem InFlight.agentStep {a : Actor} {t : State} (ha : a ≠ .host)
    (hs : actorStep a s = .next t) : InFlight t := by
  obtain ⟨f, rfl⟩ | rfl | ⟨-, hr, b, d, -, -, rfl⟩ | ⟨-, hr, b, d, r, -, -, -, hx, rfl⟩ |
    ⟨-, hr, d, hl, -, -, rfl⟩ | ⟨-, hr, d, b, hl, -, -, -, rfl⟩ | ⟨-, -, rfl⟩ |
    ⟨-, -, ⟨-, -, -, -, -, rfl⟩ | ⟨-, -, -, rfl⟩⟩ := agentStep_next ha hs
  · exact h
  · exact h
  · obtain ⟨-, -, hx, hb⟩ := shiftStartReady_iff.mp hr
    exact h.afterShiftStart hx hb b d
  · exact h.afterShiftComplete (shiftCompleteReady_iff.mp hr).2.1 hx r
  · exact h.afterTxBeat (dmaTxReady_iff.mp hr).2.1 hl _
  · exact h.afterRxBeat (dmaRxReady_iff.mp hr).2.1 hl b
  · exact h
  · exact h
  · exact h

end

/-- Settles O59: each agent moves a byte on by one place, or none; an overrun needs a received byte
that RX does not request, which the balance excludes. -/
theorem pipelineStaysBalanced : Obligations.PipelineStaysBalanced := by
  intro s t h ht hs
  have hu : InFlight (useChoice s) := h
  refine ⟨hu.agentStep ht (step_next hs).2, fun hover => ?_⟩
  obtain ⟨-, -, hx, hq⟩ := overrunOnlyWhenUnarmed s t hs hover
  obtain ⟨hline, -, hen, hn⟩ := reqRx_iff.mp (h.reqRx hx)
  simp [hline, hen, Channel.hasBytes_iff.mpr hn] at hq

end Sys2Proof.Machine
end

section
/-! PROOFS of the family 60_exceptions: the guard and the exact next state of IRQ.entry (R290, R292). -/

namespace Sys2Proof.Machine

/-- Settles O41: the guard is the level request, its enables and the context, and the action leaves
`PC` out of what it writes. -/
theorem irqEntrySwitchesContext : Obligations.IrqEntrySwitchesContext := by
  intro s hf ht
  refine ⟨fun htc htcie hen ha hok => ?_, fun h => step_unready hf ht nofun fun hr => ?_⟩
  · have hr : irqEntryReady s = true := irqEntryReady_iff.mpr ⟨hf, htc, htcie, hen, ha, hok⟩
    exact step_ready hf ht nofun hr
  · obtain ⟨-, htc, htcie, hen, ha, hok⟩ := irqEntryReady_iff.mp hr
    simp [htc, htcie, hen, ha, hok] at h

end Sys2Proof.Machine
end

section
/-! PROOFS of the family 70_reset_and_hazards: the state after reset (R66, R320), and that no step undoes
the setup (R322). -/

namespace Sys2Proof.Machine

/-! Reset (R66, R320). -/

/-- Settles O10: each conjunct is the value `State.reset` writes down for its element. -/
theorem resetValues : Obligations.ResetValues := by
  unfold Obligations.ResetValues Uninitialized
  decide

/-- Settles O53: after reset every register is `NONE` and the block is idle, disabled and unwired, so
each clause about a value, a flag or a started part has nothing to require. -/
theorem resetIsCoherent : Obligations.ResetIsCoherent where
  memory := Memory.wf_reset
  requestLines := rfl
  pins := rfl
  clock := nofun
  divisor := nofun
  counter := nofun
  enabledClocked := nofun
  wiredClocked := nofun
  sourceClocked := nofun
  tick := fun _ => rfl
  transmit := nofun
  receive := nofun
  frame := nofun
  active := by decide
  wiring := nofun
  startedTx := nofun
  startedRx := nofun
  handlerCounter := Nat.zero_le 2
  handler := nofun

/-! The setup is never undone (R322). -/

/-- The element is one of the setup that R322 speaks of, and holds what the setup gives it. -/
def Element.isSetUp (e : Element) (s : State) : Prop :=
  match e with
  | .clkOn => s.clkOn = true
  | .wired => s.wired = true
  | .irqEn => s.irqEn = true
  | .rxTcie => s.rxTcie = true
  | .pinTxl => s.pinTxl = .afOdNoPull
  | .pinRxl => s.pinRxl = .afOdNoPull
  | _ => False

/-- The elements that R322 speaks of. -/
def setupElements : List Element := [.clkOn, .wired, .irqEn, .rxTcie, .pinTxl, .pinRxl]

theorem Element.isSetUp.mem_setupElements {e : Element} {s : State} (h : e.isSetUp s) :
    e ∈ setupElements := by
  cases e <;> simp [isSetUp, setupElements] at h ⊢

theorem Element.isSetUp.of_same {e : Element} {s t : State} (h : e.isSetUp s) (hst : e.same s t) :
    e.isSetUp t := by
  have he := h.mem_setupElements
  simp only [setupElements, List.mem_cons, List.not_mem_nil, or_false] at he
  obtain rfl | rfl | rfl | rfl | rfl | rfl := he <;> exact Eq.trans hst h

/-- No agent but HOST writes the setup (R66). -/
theorem not_mem_agentWrites_of_setup : ∀ e ∈ setupElements, ∀ a, e ∉ agentWrites a := by
  intro e he a
  cases a <;> revert e <;> decide

/-- The sole writers of the setup (R66): CLKEN, DMAWIRE, IRQEN, TCIEN and, for both pins, PINCFG. -/
theorem instr_of_writes_setup {e : Element} (he : e ∈ setupElements) {i : Instr}
    (hw : e ∈ instrWrites i) :
    (e = .clkOn ∧ i = .clken) ∨ (e = .wired ∧ i = .dmawire) ∨ (e = .irqEn ∧ i = .irqen) ∨
      (e = .rxTcie ∧ i = .tcien) ∨ ((e = .pinTxl ∨ e = .pinRxl) ∧ i = .pincfg) := by
  simp only [setupElements, List.mem_cons, List.not_mem_nil, or_false] at he
  obtain rfl | rfl | rfl | rfl | rfl | rfl := he <;> cases i <;> simp [instrWrites] at hw ⊢

/-- The writer of an element of the setup gives it what the setup gives it. -/
theorem Effect.isSetUp {e : Element} (he : e ∈ setupElements) {i : Instr}
    (hw : e ∈ instrWrites i) {s t : State} (h : Effect s t i) : e.isSetUp t := by
  obtain ⟨rfl, rfl⟩ | ⟨rfl, rfl⟩ | ⟨rfl, rfl⟩ | ⟨rfl, rfl⟩ | ⟨rfl | rfl, rfl⟩ :=
    instr_of_writes_setup he hw
  · obtain ⟨-, rfl⟩ := h
    rfl
  · obtain ⟨-, -, -, rfl⟩ := h
    rfl
  · obtain ⟨-, rfl⟩ := h
    rfl
  · obtain ⟨-, -, rfl⟩ := h
    rfl
  all_goals
    obtain ⟨-, -, -, rfl⟩ := h
    rfl

/-- What is set up stays so in every step of the machine (R322). -/
theorem step_keeps_isSetUp {e : Element} {s t : State} (h : step s = .next t) (hs : e.isSetUp s) :
    e.isSetUp t := by
  have he := hs.mem_setupElements
  have hne : ∀ e ∈ setupElements, e ∉ [Element.fault, .txPaddr, .rxPaddr] := by decide
  by_cases hst : e.same s t
  · exact hs.of_same hst
  · cases step_writtenBy h hst (hne e he) with
    | instr i _ _ hE hw => exact hE.isSetUp he hw
    | agent _ _ hw => exact absurd hw (not_mem_agentWrites_of_setup e he _)

/-- Settles O44: each of the six elements stays set up. -/
theorem setupNeverUndone : Obligations.SetupNeverUndone := fun _ _ h =>
  ⟨step_keeps_isSetUp (e := .clkOn) h, step_keeps_isSetUp (e := .wired) h,
    step_keeps_isSetUp (e := .irqEn) h, step_keeps_isSetUp (e := .rxTcie) h,
    step_keeps_isSetUp (e := .pinTxl) h, step_keeps_isSetUp (e := .pinRxl) h⟩

end Sys2Proof.Machine
end
